-- ==== Sys2Proof/Word.lean ====
section
/-! DEFINITION. The bit-vector types of the Trivium register engine (spec/00_scope.md R6, R9): the widths of its cells,
bytes, counters and port words. Bit 0 of every value is its least significant bit, and every value is unsigned (R9). -/

namespace Sys2Proof

/-- A data byte: a key or IV element, a plaintext, ciphertext or keystream byte (R6, R92). -/
abbrev Byte := BitVec 8

/-- The command word on the `cmd` port, CMD_W = 16 (R6, R71, R90). -/
abbrev CmdWord := BitVec 16

/-- The response word on the `rsp` port, RSP_W = 16 (R6, R71, R91). -/
abbrev RspWord := BitVec 16

/-- The status word on the `status` port, STATUS_W = 32 (R6, R38, R71). -/
abbrev StatusWord := BitVec 32

/-- The cipher state `S`: 288 one-bit cells (R30). Bit `i` of the vector is the cell `S[i]` (log entry 5). -/
abbrev Cells := BitVec 288

/-- The 7-bit key and IV counts (R32, R33). -/
abbrev ByteCount := BitVec 7

/-- The 11-bit warm-up counter (R35). -/
abbrev WarmCount := BitVec 11

end Sys2Proof
end

