-- ==== Sys2Proof/Config.lean ====
section
/-! DEFINITION. The implementation parameters of the engine (spec/00_scope.md R6) and the values of its one open
parameter MARKER_CELLS (R7). The spec leaves no value free: "Nothing in the CORE is non-deterministic" (R8), so this
file holds no opaque constant. -/

namespace Sys2Proof.Config

/-- STATE_LEN (R6). -/
abbrev stateLen : Nat := 288

/-- KEY_LEN: the number of key elements a construction takes (R6). -/
abbrev keyLen : Nat := 80

/-- IV_LEN (R6). -/
abbrev ivLen : Nat := 80

/-- KEY_OFFSET: the key is loaded into the cells [0, 80) (R6). -/
abbrev keyOffset : Nat := 0

/-- IV_OFFSET: the IV is loaded into the cells [93, 173) (R6). -/
abbrev ivOffset : Nat := 93

/-- WARMUP_ROUNDS (R6, R131). -/
abbrev warmupRounds : Nat := 4

/-- WARMUP_STEPS = WARMUP_ROUNDS x STATE_LEN = 1152 (R6, R131). -/
abbrev warmupSteps : Nat := warmupRounds * stateLen

/-- CNT_SAT: the value at which the key and IV counts saturate (R6, R32). -/
abbrev cntSat : Nat := 81

/-- A value of the parameter MARKER_CELLS: the indices of the cells INIT sets to 1, listed in rising order (R7). -/
abbrev MarkerCells := List Nat

/-- The profile TRV-B/DOC: one marker bit, cell 287 (R7). -/
def markersDoc : MarkerCells := [287]

/-- The profile TRV-B/PUBLISHED: the cells 285, 286 and 287 (R7). -/
def markersPublished : MarkerCells := [285, 286, 287]

/-- The default of MARKER_CELLS is {287} (R7). -/
def markersDefault : MarkerCells := markersDoc

end Sys2Proof.Config
end

