-- ==== Sys2Proof/Syntax.lean ====
section
/-! DEFINITION. The eight commands of the opcode map (spec/30_encoding.md R93, spec/opcode_table.json), one constructor
per row. -/

namespace Sys2Proof

/-- A command of the engine. Only KEYB, IVB and XORB carry the data byte D = cmd[7:0] (R92). -/
inductive Instr where
  /-- NOP, opcode 0x0: no operation (R180). -/
  | nop
  /-- CLR, opcode 0x1: destroy the engine and clear every buffer (R181). -/
  | clr
  /-- KEYB, opcode 0x2: append one key byte (R110). -/
  | keyb (d : Byte)
  /-- IVB, opcode 0x3: append one IV byte (R111). -/
  | ivb (d : Byte)
  /-- INIT, opcode 0x4: construct an engine and start its warm-up (R112). -/
  | init
  /-- STEPB, opcode 0x5: one step, one keystream bit (R146). -/
  | stepb
  /-- KSB, opcode 0x6: eight steps, one keystream byte (R147). -/
  | ksb
  /-- XORB, opcode 0x7: combine one data byte with the next keystream byte (R170). -/
  | xorb (d : Byte)
  deriving DecidableEq, Repr

end Sys2Proof
end

