-- ==== Sys2Proof/WellFormed.lean ====
section
/-! DEFINITION. What is well formed: a command word (spec/30_encoding.md R94, one Boolean made of three named checks)
and a value of the parameter MARKER_CELLS (spec/00_scope.md R7). A term of `Instr` needs no check: its data byte has 8
bits by its type, and every byte is allowed where a command takes one (R92). -/

namespace Sys2Proof

/-- `op_defined = cmd[15:12] <= 0x7` (R94). -/
def opDefined (w : CmdWord) : Bool := w.extractLsb' 12 4 ≤ 0x7#4

/-- `rsv_zero = cmd[11:8] == 0x0` (R94). -/
def rsvZero (w : CmdWord) : Bool := w.extractLsb' 8 4 == 0x0#4

/-- `data_allowed = (cmd[15:12] in {0x2, 0x3, 0x7}) || cmd[7:0] == 0x00` (R94). -/
def dataAllowed (w : CmdWord) : Bool :=
  [0x2#4, 0x3#4, 0x7#4].contains (w.extractLsb' 12 4) || w.extractLsb' 0 8 == 0x00#8

/-- `valid(cmd) = op_defined && rsv_zero && data_allowed` (R94). -/
def validWord (w : CmdWord) : Bool := opDefined w && rsvZero w && dataAllowed w

namespace Config

/-- MARKER_CELLS is not empty (R7). -/
def MarkerCells.nonempty (m : MarkerCells) : Bool := !m.isEmpty

/-- Every marker cell lies in the top segment [177, 288) (R7). -/
def MarkerCells.inTopSegment (m : MarkerCells) : Bool := m.all fun i => 177 ≤ i && i < 288

/-- The set is listed in rising order without repeats, so that equal sets are equal lists (log entry 3). -/
def MarkerCells.rising (m : MarkerCells) : Bool := decide (m.Pairwise (· < ·))

/-- "A well-formed value is a non-empty subset of [177, 288), the top segment" (R7). -/
def MarkerCells.wf (m : MarkerCells) : Bool := m.nonempty && m.inTopSegment && m.rising

end Config

end Sys2Proof
end

