-- ==== Sys2Proof/Decode.lean ====
section
/-! DEFINITION. Decoding and encoding of the 16-bit command word (spec/30_encoding.md R90 to R95). The decoder reads the
fields OP, RSV and D of R90; the encoder is written from the match column of R93; R94's validity Boolean stands apart in
WellFormed.lean. That the three agree is stated among the obligations. -/

namespace Sys2Proof

/-- Why a command word is invalid (R94, R95). All three reasons have one effect, BAD_CMD (R205). -/
inductive DecodeError where
  /-- OP is 0x8 to 0xF: `op_defined` fails. -/
  | reservedOpcode
  /-- RSV is not 0: `rsv_zero` fails. -/
  | nonzeroReserved
  /-- D is not 0 on a command that takes no data: `data_allowed` fails. -/
  | dataNotTaken
  deriving DecidableEq, Repr

/-- OP = cmd[15:12] (R90). -/
def opField (w : CmdWord) : BitVec 4 := w.extractLsb' 12 4

/-- RSV = cmd[11:8] (R90). -/
def rsvField (w : CmdWord) : BitVec 4 := w.extractLsb' 8 4

/-- D = cmd[7:0] (R90, R92). -/
def dataField (w : CmdWord) : Byte := w.extractLsb' 0 8

/-- A command that takes no operand: RSV and D must be 0 (R92, R94). -/
def decodePlain (w : CmdWord) (i : Instr) : Except DecodeError Instr :=
  if rsvField w ≠ 0x0#4 then .error .nonzeroReserved
  else if dataField w ≠ 0x00#8 then .error .dataNotTaken
  else .ok i

/-- A command that takes the data byte D: RSV must be 0 (R92, R94). -/
def decodeData (w : CmdWord) (f : Byte → Instr) : Except DecodeError Instr :=
  if rsvField w ≠ 0x0#4 then .error .nonzeroReserved
  else .ok (f (dataField w))

/-- The decoder, total on every 16-bit word (R93, R94). -/
def decode (w : CmdWord) : Except DecodeError Instr :=
  match (opField w).toNat with
  | 0x0 => decodePlain w .nop
  | 0x1 => decodePlain w .clr
  | 0x2 => decodeData w .keyb
  | 0x3 => decodeData w .ivb
  | 0x4 => decodePlain w .init
  | 0x5 => decodePlain w .stepb
  | 0x6 => decodePlain w .ksb
  | 0x7 => decodeData w .xorb
  | _ => .error .reservedOpcode

/-- The `match (16 bit)` column of R93. -/
def matchOf : Instr → CmdWord
  | .nop => 0x0000#16
  | .clr => 0x1000#16
  | .keyb _ => 0x2000#16
  | .ivb _ => 0x3000#16
  | .init => 0x4000#16
  | .stepb => 0x5000#16
  | .ksb => 0x6000#16
  | .xorb _ => 0x7000#16

/-- The `mask` column of R93. -/
def maskOf : Instr → CmdWord
  | .nop => 0xFFFF#16
  | .clr => 0xFFFF#16
  | .keyb _ => 0xFF00#16
  | .ivb _ => 0xFF00#16
  | .init => 0xFFFF#16
  | .stepb => 0xFFFF#16
  | .ksb => 0xFFFF#16
  | .xorb _ => 0xFF00#16

/-- The operand D a command carries, 0x00 where it takes none (R92, R96). -/
def operandOf : Instr → Byte
  | .nop => 0x00#8
  | .clr => 0x00#8
  | .keyb d => d
  | .ivb d => d
  | .init => 0x00#8
  | .stepb => 0x00#8
  | .ksb => 0x00#8
  | .xorb d => d

/-- The encoder: "each command assembles to `(OP << 12) | D`, with D = 0 where the command takes none" (R96). -/
def encode (i : Instr) : CmdWord := matchOf i ||| (operandOf i).setWidth 16

/-- The command word that the table's bits `w`, `nbits` of them, stand for: the bits above `nbits` are 0, and the
`cmd` port has 16 bits (R90; log entry 4). -/
def tableWord (nbits w : Nat) : CmdWord := BitVec.ofNat 16 (w % 2 ^ nbits)

/-- What the decoder reads from a word numbered as spec/opcode_table.json numbers it: `none` where it refuses. -/
def decodeTableWord (nbits w : Nat) : Option Instr := (decode (tableWord nbits w)).toOption

end Sys2Proof
end

