-- ==== Sys2Proof/Machine/State.lean ====
section
/-! DEFINITION. The state of the engine (spec/10_state.md R30 to R43) and its value after reset
(spec/70_reset_and_hazards.md R240). The last two fields are the model's own: the configuration of the instance and the
values the host drives on the input ports at the coming clock edges (spec/20_memory.md R71; log entries 1 and 3). -/

namespace Sys2Proof.Machine

/-- PHASE, the engine lifecycle (R34). Its encoding, 0 to 2, is `Phase.bits` in Flags.lean. The value 3 is "never
produced" (R34) and is no term of this type (log entry 8). -/
inductive Phase where
  /-- 0: no engine. -/
  | empty
  /-- 1: warm-up ticks run and no command is accepted. -/
  | warmup
  /-- 2: STEPB, KSB and XORB produce keystream. -/
  | ready
  deriving DecidableEq, Repr

/-- A response code (R201). Its encoding, 0 to 4, is `RespCode.bits` in Flags.lean. The codes 5 to 7 are "never
produced" (R201) and are no terms of this type (log entry 8). -/
inductive RespCode where
  /-- 0: success. -/
  | ok
  /-- 1: KCNT != 80 at INIT (R202). -/
  | invalidKeyLength
  /-- 2: ICNT != 80 at INIT, with KCNT == 80 (R203). -/
  | invalidIvLength
  /-- 3: a keystream command with PHASE == EMPTY (R204). -/
  | notReady
  /-- 4: the accepted word is invalid (R205). -/
  | badCmd
  deriving DecidableEq, Repr

/-- The values on the input ports just before one rising edge of `clk` (R71). -/
structure Pins where
  /-- `rst`: synchronous reset, active high. -/
  rst : Bool
  /-- `cmd_valid`: the host offers the command on `cmd`. -/
  cmdValid : Bool
  /-- `cmd`: the command word. -/
  cmd : CmdWord
  deriving DecidableEq, Repr

/-- The engine, with the input it is about to be given. -/
structure State where
  /-- `S`: the 288 cells of the cipher state; bit `i` is the cell `S[i]` (R30). -/
  cells : Cells
  /-- `KBUF`: the key buffer (R32). -/
  kbuf : Vector Byte 80
  /-- `KCNT`: the key count, 0 to 81 (R32). -/
  kcnt : ByteCount
  /-- `IBUF`: the IV buffer (R33). -/
  ibuf : Vector Byte 80
  /-- `ICNT`: the IV count, 0 to 81 (R33). -/
  icnt : ByteCount
  /-- `PHASE`: the engine lifecycle (R34). -/
  phase : Phase
  /-- `WCNT`: the warm-up steps done, 0 to 1152 (R35). -/
  wcnt : WarmCount
  /-- `LAST_ERR`: the code of the most recent command that failed (R36). -/
  lastErr : RespCode
  /-- `RSP`: the response register (R37). -/
  rsp : RspWord
  /-- `RSP_V`: the response-valid register (R37). -/
  rspV : Bool
  /-- MARKER_CELLS (R7): the parameter of this chip. It is "fixed for an instance and no command changes it"
  (spec/10_state.md); no step writes it (log entry 3). -/
  markers : Config.MarkerCells
  /-- What the host drives at the coming rising edges, the next edge first. After the last entry the host drives
  nothing: `rst` and `cmd_valid` are 0 (log entries 1 and 2). -/
  pins : List Pins
  deriving DecidableEq, Repr

/-- The reasons a step could stop the machine with a fault. There are none: "No error stops the CORE or makes it refuse
later commands" (R200), so nothing raises a fault (log entry 10). -/
inductive Fault where
  deriving DecidableEq, Repr

/-- The reasons a command could have no meaning in the model. -/
inductive Refusal where
  /-- Raised only by an arm of `exec` whose instruction has no meaning yet. Safe: the model stops. No arm raises it. -/
  | notModelled (mnemonic : String)
  deriving DecidableEq, Repr

/-- The machine right after reset: every register at the value R240 states. MARKER_CELLS has its default (R7, log entry
3), and no input is listed (log entry 1). -/
def State.reset : State where
  cells := 0#288
  kbuf := Vector.replicate 80 0x00#8
  kcnt := 0#7
  ibuf := Vector.replicate 80 0x00#8
  icnt := 0#7
  phase := .empty
  wcnt := 0#11
  lastErr := .ok
  rsp := 0x0000#16
  rspV := false
  markers := Config.markersDefault
  pins := []

end Sys2Proof.Machine
end

