-- ==== Sys2Proof/Machine/Flags.lean ====
section
/-! DEFINITION. The flags and the words made of them: the response code and the response word (spec/30_encoding.md R91,
spec/60_exceptions.md R201), the LAST_ERR rule (R208), BUSY and the STATUS word (spec/10_state.md R38, R39), and the
handshake outputs (spec/20_memory.md R71, R72). -/

namespace Sys2Proof.Machine

/-- The encoding of PHASE (R34). -/
def Phase.bits : Phase → BitVec 2
  | .empty => 0#2
  | .warmup => 1#2
  | .ready => 2#2

/-- The encoding of the response codes (R201). -/
def RespCode.bits : RespCode → BitVec 3
  | .ok => 0#3
  | .invalidKeyLength => 1#3
  | .invalidIvLength => 2#3
  | .notReady => 3#3
  | .badCmd => 4#3

/-- `rsp = {cmd[15:12], 0b0, CODE, DATA}` (R91). -/
def rspWord (cmd : CmdWord) (code : RespCode) (data : Byte) : RspWord :=
  opField cmd ++ 0#1 ++ code.bits ++ data

/-- ROP = rsp[15:12] (R91). -/
def rspOp (r : RspWord) : BitVec 4 := r.extractLsb' 12 4

/-- CODE = rsp[10:8] (R91). -/
def rspCode (r : RspWord) : BitVec 3 := r.extractLsb' 8 3

/-- DATA = rsp[7:0] (R91). -/
def rspData (r : RspWord) : Byte := r.extractLsb' 0 8

/-- LAST_ERR after an accepted command: a code other than OK is written, OK leaves it unchanged (R208). CLR writes 0 in
its own rule (R181). -/
def lastErrAfter (code old : RespCode) : RespCode := if code = .ok then old else code

/-- BUSY: 1 iff PHASE == WARMUP (R38, R39). -/
def State.busy (s : State) : Bool := s.phase = .warmup

/-- `STATUS = {LAST_ERR, WCNT, ICNT, KCNT, 0b0, BUSY, PHASE}`, a wired view of the registers (R38). -/
def State.status (s : State) : StatusWord :=
  s.lastErr.bits ++ s.wcnt ++ s.icnt ++ s.kcnt ++ 0#1 ++ BitVec.ofBool s.busy ++ s.phase.bits

/-- The input ports when the host drives nothing (R73, case 4). The value of `cmd` is not read then (R72). -/
def Pins.idle : Pins := { rst := false, cmdValid := false, cmd := 0x0000#16 }

/-- The input ports when the host offers the command `w`. -/
def Pins.offer (w : CmdWord) : Pins := { rst := false, cmdValid := true, cmd := w }

/-- The values on the input ports just before the coming edge (R71; log entries 1 and 2). -/
def State.pinsNow (s : State) : Pins := s.pins.headD Pins.idle

/-- The state when the coming edge has used up its input. -/
def State.popPins (s : State) : State := { s with pins := s.pins.tail }

/-- `cmd_ready == (rst == 0) && (PHASE != WARMUP)` (R72). -/
def State.cmdReady (s : State) : Bool := !s.pinsNow.rst && s.phase ≠ .warmup

/-- A command is accepted at the coming edge exactly when `cmd_valid == 1` and `cmd_ready == 1` just before it (R72). -/
def State.accepts (s : State) : Bool := s.pinsNow.cmdValid && s.cmdReady

/-- What the host can see at the output ports (R71, R43). -/
structure Ports where
  /-- `cmd_ready` -/
  cmdReady : Bool
  /-- `rsp_valid` -/
  rspValid : Bool
  /-- `rsp` -/
  rsp : RspWord
  /-- `status` -/
  status : StatusWord
  deriving DecidableEq, Repr

/-- The output ports: `rsp_valid` and `rsp` are the registers RSP_V and RSP, and `status` and `cmd_ready` are
combinational functions of the registers and `rst` (R71, R72). -/
def State.ports (s : State) : Ports :=
  { cmdReady := s.cmdReady, rspValid := s.rspV, rsp := s.rsp, status := s.status }

end Sys2Proof.Machine
end

