-- ==== Sys2Proof/Machine/Operands.lean ====
section
/-! DEFINITION. The operand forms of the engine: it has one, the data byte D, used as it stands (spec/30_encoding.md
R92), of which INIT takes bit 0 (spec/40_loader.md R112) and XORB all 8 bits (spec/43_combiner.md R170). Here stand the
bit selection, the widening of a keystream bit, and the combination with a keystream byte. -/

namespace Sys2Proof.Machine

/-- `KBUF[j][0]`: the one bit of a key or IV element that INIT loads (R75, R112). -/
def elementBit (d : Byte) : Bool := d.getLsbD 0

/-- `zext_8(z)`: a keystream bit widened to a byte with zeros (R9, R146). -/
def zext8 (z : Bool) : Byte := (BitVec.ofBool z).setWidth 8

/-- `D ^ b`: a data byte combined with a keystream byte (R170). -/
def combine (d b : Byte) : Byte := d ^^^ b

end Sys2Proof.Machine
end

