-- ==== Sys2Proof/Machine/Ops.lean ====
section
/-! DEFINITION. The named operations over the state that the commands share: reading and writing a cell, the step
function (spec/42_stepper.md R140 to R142), the packing of a keystream byte (R147), staging a key or IV byte
(spec/40_loader.md R110, R111), loading the cells (R112), clearing the buffers, completing a command (`respond`, R206),
failing one (`fail`, the engine's form of raising an exception, R10, R206), and the reset edge (R240). -/

namespace Sys2Proof.Machine

/-- `S[i]`: cell `i` of the cipher state (R10). -/
def cell (S : Cells) (i : Nat) : Bool := S.getLsbD i

/-- `S[i] <- b` (R10). An index outside [0, 288) names no cell, and nothing is written. -/
def setCell (S : Cells) (i : Nat) (b : Bool) : Cells :=
  if b then S ||| BitVec.twoPow 288 i else S &&& ~~~(BitVec.twoPow 288 i)

/-- The step function: `(N, z)` from the old state `S` (R140 to R142). -/
def stepCells (S : Cells) : Cells × Bool :=
  let t1 := cell S 65 ^^ cell S 92
  let t2 := cell S 161 ^^ cell S 176
  let t3 := cell S 242 ^^ cell S 287
  let z := t1 ^^ t2 ^^ t3
  let f1 := t1 ^^ (cell S 90 && cell S 91) ^^ cell S 170
  let f2 := t2 ^^ (cell S 174 && cell S 175) ^^ cell S 263
  let f3 := t3 ^^ (cell S 285 && cell S 286) ^^ cell S 68
  (setCell (setCell (setCell (S <<< 1) 0 f3) 93 f1) 177 f2, z)

/-- `n` applications of the step function, the output bits discarded. -/
def stepN : Nat → Cells → Cells
  | 0, S => S
  | n + 1, S => stepN n (stepCells S).1

/-- `z_n`: the output bit of the step that follows `n` steps (R148). -/
def keystreamBit (S : Cells) (n : Nat) : Bool := (stepCells (stepN n S)).2

/-- One turn of the packing loop: `(S, z) <- Step(S); b <- b | (zext_8(z) << k)` (R147). -/
def packBit (acc : Cells × Byte) (k : Nat) : Cells × Byte :=
  ((stepCells acc.1).1, acc.2 ||| (zext8 (stepCells acc.1).2 <<< k))

/-- Eight steps and the byte they give, the first bit produced in bit 0 (R147, R170). -/
def keystreamByte (S : Cells) : Cells × Byte := (List.range 8).foldl packBit (S, 0x00#8)

/-- One byte appended to a staging buffer: below 80 it is stored and counted; from 80 on the count saturates at 81 and
the byte is discarded (R110, R111). -/
def stageByte (buf : Vector Byte 80) (cnt : ByteCount) (d : Byte) : Vector Byte 80 × ByteCount :=
  if cnt.toNat < Config.keyLen then (buf.setIfInBounds cnt.toNat d, cnt + 1#7)
  else (buf, BitVec.ofNat 7 Config.cntSat)

/-- `for j: S[off + j] <- bytes[j][0]` (R112). -/
def loadBits (off : Nat) : List Byte → Cells → Cells
  | [], S => S
  | d :: ds, S => loadBits (off + 1) ds (setCell S off (elementBit d))

/-- `for m in MARKER_CELLS: S[m] <- 1` (R112). -/
def setMarkers : Config.MarkerCells → Cells → Cells
  | [], S => S
  | m :: ms, S => setMarkers ms (setCell S m true)

/-- The cells INIT loads: all 0, then the key, the IV and the marker (R112). -/
def loadCells (kbuf ibuf : Vector Byte 80) (markers : Config.MarkerCells) : Cells :=
  setMarkers markers (loadBits Config.ivOffset ibuf.toList (loadBits Config.keyOffset kbuf.toList 0#288))

/-- `clear_buffers()` (spec/40_loader.md). -/
def State.clearBuffers (s : State) : State :=
  { s with
    kbuf := Vector.replicate 80 0x00#8
    kcnt := 0#7
    ibuf := Vector.replicate 80 0x00#8
    icnt := 0#7 }

/-- `respond(code, data)`: the one write of RSP, RSP_V and LAST_ERR by which every accepted command completes (R206,
R208). -/
def respond (cmd : CmdWord) (code : RespCode) (data : Byte) (s : State) : State :=
  { s with
    lastErr := lastErrAfter code s.lastErr
    rsp := rspWord cmd code data
    rspV := true }

/-- `fail(code)`: `respond(code, 0x00)` (R206). It is the engine's form of raising an exception (R10): there is no trap
entry, it "saves only the code, in RSP and LAST_ERR" and redirects no control flow, and there is no return (R211). -/
def fail (cmd : CmdWord) (code : RespCode) (s : State) : State := respond cmd code 0x00#8 s

/-- An accepted invalid word completes with BAD_CMD and changes nothing else (R205). -/
def badCmd (cmd : CmdWord) (s : State) : State := fail cmd .badCmd s

/-- The edge with `rst == 1`: every register takes its reset value (R240). The parameter MARKER_CELLS is no register
and the host's further input is not the engine's, so both stay. -/
def resetEdge (s : State) : State := { State.reset with markers := s.markers, pins := s.pins }

/-- The edge at which nothing is accepted and nothing runs: RSP_V becomes 0 (R73, case 4). -/
def idleEdge (s : State) : State := { s with rspV := false }

end Sys2Proof.Machine
end

