-- ==== Sys2Proof/Machine/Combiner.lean ====
section
/-! DEFINITION. The keystream XOR combiner: XORB (spec/43_combiner.md R170). -/

namespace Sys2Proof.Machine

/-- XORB: the data byte combined with the next keystream byte; NOT_READY unless PHASE == READY (R170). -/
def execXorb (d : Byte) (s : State) : Host.Outcome State Fault Refusal :=
  if s.phase ≠ .ready then .next (fail (encode (.xorb d)) .notReady s)
  else
    let r := keystreamByte s.cells
    .next (respond (encode (.xorb d)) .ok (combine d r.2) { s with cells := r.1 })

end Sys2Proof.Machine
end

