-- ==== Sys2Proof/Machine/Control.lean ====
section
/-! DEFINITION. The control commands: NOP and CLR (spec/44_control.md R180, R181). -/

namespace Sys2Proof.Machine

/-- NOP: the response is its only effect (R180). -/
def execNop (s : State) : Host.Outcome State Fault Refusal :=
  .next (respond (encode .nop) .ok 0x00#8 s)

/-- CLR: every cell, buffer and counter to 0, PHASE to EMPTY, LAST_ERR to 0 (R181). -/
def execClr (s : State) : Host.Outcome State Fault Refusal :=
  .next (respond (encode .clr) .ok 0x00#8
    { s.clearBuffers with
      cells := 0#288
      wcnt := 0#11
      phase := .empty
      lastErr := .ok })

end Sys2Proof.Machine
end

