-- ==== Sys2Proof/Machine/Loader.lean ====
section
/-! DEFINITION. The key/IV loader and construction: KEYB, IVB, INIT (spec/40_loader.md R110 to R112). -/

namespace Sys2Proof.Machine

/-- KEYB (R110). -/
def execKeyb (d : Byte) (s : State) : Host.Outcome State Fault Refusal :=
  let r := stageByte s.kbuf s.kcnt d
  .next (respond (encode (.keyb d)) .ok 0x00#8 { s with kbuf := r.1, kcnt := r.2 })

/-- IVB (R111). -/
def execIvb (d : Byte) (s : State) : Host.Outcome State Fault Refusal :=
  let r := stageByte s.ibuf s.icnt d
  .next (respond (encode (.ivb d)) .ok 0x00#8 { s with ibuf := r.1, icnt := r.2 })

/-- INIT (R112). A length error clears both buffers and leaves the engine as it was (R202, R203); the key is checked
first (R207). -/
def execInit (s : State) : Host.Outcome State Fault Refusal :=
  if s.kcnt ≠ BitVec.ofNat 7 Config.keyLen then
    .next (fail (encode .init) .invalidKeyLength s.clearBuffers)
  else if s.icnt ≠ BitVec.ofNat 7 Config.ivLen then
    .next (fail (encode .init) .invalidIvLength s.clearBuffers)
  else
    .next (respond (encode .init) .ok 0x00#8
      { s.clearBuffers with
        cells := loadCells s.kbuf s.ibuf s.markers
        wcnt := 0#11
        phase := .warmup })

end Sys2Proof.Machine
end

