-- ==== Sys2Proof/Machine/Stepper.lean ====
section
/-! DEFINITION. The commands that return keystream: STEPB and KSB (spec/42_stepper.md R146, R147). -/

namespace Sys2Proof.Machine

/-- STEPB: one step, one keystream bit; NOT_READY unless PHASE == READY (R146). -/
def execStepb (s : State) : Host.Outcome State Fault Refusal :=
  if s.phase ≠ .ready then .next (fail (encode .stepb) .notReady s)
  else
    let r := stepCells s.cells
    .next (respond (encode .stepb) .ok (zext8 r.2) { s with cells := r.1 })

/-- KSB: eight steps, one keystream byte; NOT_READY unless PHASE == READY (R147). -/
def execKsb (s : State) : Host.Outcome State Fault Refusal :=
  if s.phase ≠ .ready then .next (fail (encode .ksb) .notReady s)
  else
    let r := keystreamByte s.cells
    .next (respond (encode .ksb) .ok r.2 { s with cells := r.1 })

end Sys2Proof.Machine
end

