-- ==== Sys2Proof/Machine/Dispatch.lean ====
section
/-! DEFINITION. One arm per command of the opcode map (spec/30_encoding.md R93), each one direct call of its meaning. -/

namespace Sys2Proof.Machine

/-- What an accepted command does (R73, case 3). -/
def exec (i : Instr) (s : State) : Host.Outcome State Fault Refusal :=
  match i with
  | .nop => Sys2Proof.Machine.execNop s
  | .clr => Sys2Proof.Machine.execClr s
  | .keyb d => Sys2Proof.Machine.execKeyb d s
  | .ivb d => Sys2Proof.Machine.execIvb d s
  | .init => Sys2Proof.Machine.execInit s
  | .stepb => Sys2Proof.Machine.execStepb s
  | .ksb => Sys2Proof.Machine.execKsb s
  | .xorb d => Sys2Proof.Machine.execXorb d s

end Sys2Proof.Machine
end

