-- ==== Sys2Proof/Machine/Warmup.lean ====
section
/-! DEFINITION. The warm-up sequencer (spec/41_warmup.md R130 to R133): not a command, but the engine's own step at
every edge of the phase WARMUP. -/

namespace Sys2Proof.Machine

/-- The warm-up tick: one step with the output bit discarded, WCNT + 1, READY when WCNT reaches 1152, RSP_V 0 (R130). -/
def tick (s : State) : State :=
  { s with
    cells := (stepCells s.cells).1
    wcnt := s.wcnt + 1#11
    phase := if s.wcnt + 1#11 = BitVec.ofNat 11 Config.warmupSteps then .ready else s.phase
    rspV := false }

/-- Ticks, at most `fuel` of them, until the phase is no longer WARMUP. It is used only to say when a command that the
host keeps offering is taken (R244; log entry 4). -/
def finishWarmup : Nat → State → State
  | 0, s => s
  | fuel + 1, s => if s.phase = .warmup then finishWarmup fuel (tick s) else s

end Sys2Proof.Machine
end

