-- ==== Sys2Proof/Machine/Edge.lean ====
section
/-! DEFINITION. What the block does at one rising edge of `clk` (spec/20_memory.md R72, R73), and how a command word is
put before it. -/

namespace Sys2Proof.Machine

/-- Accept the word on `cmd`: run the command it decodes to, or complete with BAD_CMD (R73 case 3, R94, R205). -/
def accept (w : CmdWord) (s : State) : Host.Outcome State Fault Refusal :=
  match decode w with
  | .ok i => exec i s
  | .error _ => .next (badCmd w s)

/-- One rising edge, in the order of precedence of R73: reset, else a warm-up tick, else the offered command, else
nothing but RSP_V becoming 0. -/
def edge (s : State) : Host.Outcome State Fault Refusal :=
  if s.pinsNow.rst then .next (resetEdge s.popPins)
  else if s.phase = .warmup then .next (tick s.popPins)
  else if s.pinsNow.cmdValid then accept s.pinsNow.cmd s.popPins
  else .next (idleEdge s.popPins)

/-- The host offers the word `w` at the coming edge. In WARMUP no command is taken, so the ticks that are still to come
run first, as the handshake has an offered command wait (R244; log entry 4). -/
def offerNext (w : CmdWord) (s : State) : State :=
  if s.phase = .warmup then { finishWarmup 2048 s with pins := Pins.offer w :: s.pins }
  else { s with pins := Pins.offer w :: s.pins }

end Sys2Proof.Machine
end

