-- ==== Sys2Proof/Machine/Step.lean ====
section
/-! DEFINITION. The step function of the machine: one rising edge of `clk` (spec/00_scope.md R8, spec/20_memory.md R73).
-/

namespace Sys2Proof.Machine

/-- One step is one rising edge (R8). -/
def step (s : State) : Host.Outcome State Fault Refusal := edge s

/-- The state with the table word `w` offered on the command port at the coming edge, where `step` takes its next
command from (log entry 4). -/
def State.withFetchWord (s : State) (nbits w : Nat) : State := offerNext (tableWord nbits w) s

end Sys2Proof.Machine
end

