-- ==== Sys2Proof/Machine/Assembler.lean ====
section
/-! DEFINITION. The assembler notation of the spec (spec/30_encoding.md R96) and its pseudo-instructions (R97): what a
host sends, no part of the engine. A source line is a list of characters. -/

namespace Sys2Proof.Machine

/-! ### Source lines (R96) -/

/-- The blanks between the parts of a line. -/
def isBlank (c : Char) : Bool := c = ' ' || c = '\t'

/-- The line without its leading blanks. -/
def skipBlanks : List Char → List Char
  | [] => []
  | c :: cs => if isBlank c then skipBlanks cs else c :: cs

/-- The characters up to a blank, a comment or the end of the line, and the rest. -/
def takeWord : List Char → List Char × List Char
  | [] => ([], [])
  | c :: cs => if isBlank c || c = ';' then ([], c :: cs) else (c :: (takeWord cs).1, (takeWord cs).2)

/-- Nothing but blanks and a comment follows (R96: `;` starts a comment). -/
def endsLine (cs : List Char) : Bool :=
  match skipBlanks cs with
  | [] => true
  | c :: _ => c = ';'

/-- The value of a hexadecimal digit, in either case of its letters. -/
def digitValue (c : Char) : Option Nat :=
  if '0' ≤ c && c ≤ '9' then some (c.toNat - 48)
  else if 'A' ≤ c && c ≤ 'F' then some (c.toNat - 55)
  else if 'a' ≤ c && c ≤ 'f' then some (c.toNat - 87)
  else none

/-- The number the digits denote in a base, after a value already read. -/
def readDigits (base : Nat) : Nat → List Char → Option Nat
  | n, [] => some n
  | n, c :: cs =>
    match digitValue c with
    | some v => if v < base then readDigits base (n * base + v) cs else none
    | none => none

/-- A number: hexadecimal (`0x3A`) or decimal (`58`). -/
def readNumber : List Char → Option Nat
  | [] => none
  | '0' :: 'x' :: [] => none
  | '0' :: 'x' :: c :: cs => readDigits 16 0 (c :: cs)
  | c :: cs => readDigits 10 0 (c :: cs)

/-- The character that opens and closes a character literal. -/
def quoteChar : Char := Char.ofNat 39

/-- An operand and the rest of the line: a character literal (its ASCII code), else a number. Literals of other than
visible ASCII characters, and those around a blank, a semicolon or an apostrophe, are DESIGN CHOICE (log entry 16). -/
def readOperand (cs : List Char) : Option (Nat × List Char) :=
  match cs with
  | q :: c :: q' :: rest =>
    if q = quoteChar && q' = quoteChar then some (c.toNat, rest)
    else (readNumber (takeWord cs).1).map fun n => (n, (takeWord cs).2)
  | _ => (readNumber (takeWord cs).1).map fun n => (n, (takeWord cs).2)

/-- The mnemonics of the commands without operand (R93). -/
def plainMnemonics : List (List Char × Instr) :=
  [(['N', 'O', 'P'], .nop), (['C', 'L', 'R'], .clr), (['I', 'N', 'I', 'T'], .init),
   (['S', 'T', 'E', 'P', 'B'], .stepb), (['K', 'S', 'B'], .ksb)]

/-- The mnemonics of the commands with one operand (R93). -/
def dataMnemonics : List (List Char × (Byte → Instr)) :=
  [(['K', 'E', 'Y', 'B'], .keyb), (['I', 'V', 'B'], .ivb), (['X', 'O', 'R', 'B'], .xorb)]

/-- An operand, number or character literal, of at most `bound` that ends its line. That a larger one is refused is
DESIGN CHOICE (log entry 16). -/
def lineOperand (bound : Nat) (cs : List Char) : Option Nat :=
  match readOperand (skipBlanks cs) with
  | some (n, rest) => if n ≤ bound && endsLine rest then some n else none
  | none => none

/-- What a line assembles to: `none` where it is no line of the notation, `some none` where it holds no command, and
the command word otherwise; `.word` writes a word as it stands (R96). DESIGN CHOICE (log entry 16): R96 shows `.word`
with the operand 0x8000 only; here it takes every operand form the commands take, hexadecimal, decimal or a character
literal, with any value up to 0xFFFF. -/
def assembleLine (line : List Char) : Option (Option CmdWord) :=
  let word := (takeWord (skipBlanks line)).1
  let rest := (takeWord (skipBlanks line)).2
  if word = [] then (if endsLine rest then some none else none)
  else if word = ['.', 'w', 'o', 'r', 'd'] then
    (lineOperand 0xFFFF rest).map fun n => some (BitVec.ofNat 16 n)
  else
    match plainMnemonics.lookup word with
    | some i => if endsLine rest then some (some (encode i)) else none
    | none =>
      match dataMnemonics.lookup word with
      | some f => (lineOperand 0xFF rest).map fun n => some (encode (f (BitVec.ofNat 8 n)))
      | none => none

/-! ### Pseudo-instructions (R97) -/

/-- The pseudo-instructions of R97's table. -/
inductive Pseudo where
  /-- LDKEY: 80 KEYB, in order. -/
  | ldkey (k : Vector Byte 80)
  /-- LDIV: 80 IVB, in order. -/
  | ldiv (v : Vector Byte 80)
  /-- ENGINE: LDKEY, LDIV, INIT. -/
  | engine (k v : Vector Byte 80)
  /-- ENC: one XORB a byte. -/
  | enc (data : List Byte)
  /-- DEC: identical to ENC. -/
  | dec (data : List Byte)
  /-- KS n: KSB, n times. -/
  | ks (n : Nat)
  /-- ZEROKEY: KEYB 0x00, 80 times. -/
  | zerokey
  /-- ZEROIV: IVB 0x00, 80 times. -/
  | zeroiv
  deriving DecidableEq, Repr

/-- The expansion column of R97's table. -/
def expandPseudo : Pseudo → List Instr
  | .ldkey k => k.toList.map .keyb
  | .ldiv v => v.toList.map .ivb
  | .engine k v => k.toList.map .keyb ++ v.toList.map .ivb ++ [.init]
  | .enc data => data.map .xorb
  | .dec data => data.map .xorb
  | .ks n => List.replicate n .ksb
  | .zerokey => List.replicate 80 (.keyb 0x00#8)
  | .zeroiv => List.replicate 80 (.ivb 0x00#8)

end Sys2Proof.Machine
end

