-- ==== Sys2Proof/Safety.lean ====
section
/-! DEFINITION. What the statements speak of: the invariant of the engine (the ranges and relations spec/10_state.md
gives its registers), what a host observes (spec/10_state.md R43, spec/20_memory.md R74), and what it is for a run never
to stop (spec/60_exceptions.md R200). -/

namespace Sys2Proof.Machine

/-- `BUF[j] == 0` for every j >= min(COUNT, 80) (R32, R33). -/
def BufferClean (buf : Vector Byte 80) (cnt : ByteCount) : Prop :=
  ∀ j : Fin 80, min cnt.toNat 80 ≤ j.val → buf[j] = 0x00#8

/-- The invariant of the engine. It holds at reset and every step keeps it (stated among the obligations). -/
structure State.Inv (s : State) : Prop where
  /-- MARKER_CELLS is well formed (R7). -/
  markers_wf : s.markers.wf = true
  /-- KCNT holds 0 to 81 (R32). -/
  kcnt_range : s.kcnt.toNat ≤ 81
  /-- ICNT holds 0 to 81 (R33). -/
  icnt_range : s.icnt.toNat ≤ 81
  /-- The key buffer is 0 above its count (R32). -/
  kbuf_clean : BufferClean s.kbuf s.kcnt
  /-- The IV buffer is 0 above its count (R33). -/
  ibuf_clean : BufferClean s.ibuf s.icnt
  /-- PHASE == EMPTY implies WCNT == 0 (R35). -/
  empty_wcnt : s.phase = .empty → s.wcnt = 0#11
  /-- PHASE == WARMUP implies 0 <= WCNT <= 1151 (R35). -/
  warmup_wcnt : s.phase = .warmup → s.wcnt.toNat ≤ 1151
  /-- PHASE == READY implies WCNT == 1152 (R35). -/
  ready_wcnt : s.phase = .ready → s.wcnt = 1152#11
  /-- Without an engine the cells are all 0 (R30, R181, R240). -/
  empty_cells : s.phase = .empty → s.cells = 0#288
  /-- An engine is never in the all-zero state, the fixed point of the step function (R112 corner case 3, R144). -/
  engine_cells : s.phase ≠ .empty → s.cells ≠ 0#288
  /-- rsp[11] is always 0 (R91). -/
  rsp_zero_bit : s.rsp.getLsbD 11 = false
  /-- The codes 5 to 7 are never produced (R201). -/
  rsp_code_range : (rspCode s.rsp).toNat ≤ 4
  /-- DATA is 0x00 on every error (R91). -/
  rsp_error_data : rspCode s.rsp ≠ 0#3 → rspData s.rsp = 0x00#8
  /-- LAST_ERR holds the code of a failure that RSP still shows (R36, R208). -/
  rsp_last_err : rspCode s.rsp ≠ 0#3 → s.lastErr.bits = rspCode s.rsp

/-- What the output ports show after each of the next `n` edges (R71). -/
def portTrace : Nat → State → List Ports
  | 0, _ => []
  | n + 1, s =>
    match step s with
    | .next t => t.ports :: portTrace n t
    | .fault _ => []
    | .refused _ => []

/-- The responses of the commands accepted at the next `n` edges, in order: `rsp` in each cycle in which `rsp_valid` is 1
(R74, R79). -/
def responses : Nat → State → List RspWord
  | 0, _ => []
  | n + 1, s =>
    match step s with
    | .next t => if t.rspV then t.rsp :: responses n t else responses n t
    | .fault _ => []
    | .refused _ => []

/-- `n` edges lead from `s` to `t`. -/
def Runs : Nat → State → State → Prop
  | 0, s, t => s = t
  | n + 1, s, t => ∃ u, step s = .next u ∧ Runs n u t

/-- A run that never stops, however many edges it has (R200: "No error stops the CORE"). -/
def NeverStops (s : State) : Prop := ∀ n, ∃ t, Runs n s t

end Sys2Proof.Machine
end

