-- ==== Sys2Proof/Certificates/Slice0/Obligations.lean ====
section
/-! DEFINITION. The statements for the provers. Each docstring names the rule of spec/ it formalises. The definitions
before them are the words the statements use: what it is for a word to be offered, how a rule writes a response, and
the spec's other forms of the machine (a rotation, a circular buffer, byte cells). -/

namespace Sys2Proof.Claims

open Sys2Proof.Machine

/-- The host offers `w` at the coming edge, and the engine accepts it (R72). -/
def Accepted (w : CmdWord) (s : State) : Prop := s.accepts = true ∧ s.pinsNow.cmd = w

/-- "Phases accepted: EMPTY, READY" (R110 and every other command rule): the word, offered without reset, is accepted in
those phases and in no other. -/
def AcceptedInEmptyAndReady (w : CmdWord) : Prop :=
  ∀ s : State, s.pinsNow = Pins.offer w → (s.accepts = true ↔ s.phase = .empty ∨ s.phase = .ready)

/-- The accepted word completes with BAD_CMD, and nothing changes but RSP, RSP_V and LAST_ERR (R205); the input of the
edge is used up (the model's input list, log entry 1). -/
def FailsAsBadCmd (w : CmdWord) : Prop :=
  ∀ s : State, Accepted w s → step s = .next { s with
    rsp := w.extractLsb' 12 4 ++ 0#1 ++ 4#3 ++ 0x00#8, rspV := true, lastErr := .badCmd, pins := s.pins.tail }

/-- The encoding of a command without operand: the one word `m` (R93). -/
def EncodedAs (m : CmdWord) (i : Instr) : Prop := ∀ w : CmdWord, w &&& 0xFFFF#16 = m ↔ decode w = .ok i

/-- The encoding of a command with the data byte D = cmd[7:0] (R92, R93). -/
def EncodedWithData (m : CmdWord) (f : Byte → Instr) : Prop :=
  ∀ w : CmdWord, w &&& 0xFF00#16 = m ↔ decode w = .ok (f (w.extractLsb' 0 8))

/-- Every word of the opcode `op` but `m` is invalid and fails as BAD_CMD: a nonzero D or RSV. -/
def OtherwiseBadCmd (op : BitVec 4) (m : CmdWord) : Prop :=
  ∀ w : CmdWord, w.extractLsb' 12 4 = op → w ≠ m → FailsAsBadCmd w

/-- The three feedback bits of R141, on the sums t1, t2, t3 of R140. -/
def t1 (S : Cells) : Bool := cell S 65 ^^ cell S 92
def t2 (S : Cells) : Bool := cell S 161 ^^ cell S 176
def t3 (S : Cells) : Bool := cell S 242 ^^ cell S 287
def f1 (S : Cells) : Bool := t1 S ^^ (cell S 90 && cell S 91) ^^ cell S 170
def f2 (S : Cells) : Bool := t2 S ^^ (cell S 174 && cell S 175) ^^ cell S 263
def f3 (S : Cells) : Bool := t3 S ^^ (cell S 285 && cell S 286) ^^ cell S 68

/-- The cells that `Step` reads (R145). -/
def outputTaps : List Nat := [65, 92, 161, 176, 242, 287]
def cellsRead : List Nat := outputTaps ++ [90, 91, 174, 175, 285, 286, 170, 263, 68]

/-- The inverse of `Step`, by the formulas of R144: first every cell that the shift moved, then the three tails. -/
def unshift (N : Cells) : Cells := N >>> 1
def stepBack (N : Cells) : Cells :=
  let U := unshift N
  setCell (setCell (setCell U
    92 (cell N 93 ^^ cell U 65 ^^ (cell U 90 && cell U 91) ^^ cell U 170))
    176 (cell N 177 ^^ cell U 161 ^^ (cell U 174 && cell U 175) ^^ cell U 263))
    287 (cell N 0 ^^ cell U 242 ^^ (cell U 285 && cell U 286) ^^ cell U 68)

/-- The circular-buffer form of the state: logical cell `i` is the physical cell `(i - h) mod 288` (R143). -/
def logical (P : Nat → Bool) (h i : Nat) : Bool := P ((i + 288 - h) % 288)

/-- One step of the circular buffer: the head moves by one and the three injections are written (R143). -/
def circularStep (S : Cells) (P : Nat → Bool) (h : Nat) : (Nat → Bool) × Nat :=
  let h' := (h + 1) % 288
  (fun p => if p = (0 + 288 - h') % 288 then f3 S else if p = (93 + 288 - h') % 288 then f1 S
    else if p = (177 + 288 - h') % 288 then f2 S else P p, h')

/-- The byte-cell form of the state, one byte per cell with bitwise `^` and `&` (R149). -/
def byteStep (B : Nat → Byte) : (Nat → Byte) × Byte :=
  let b1 := B 65 ^^^ B 92
  let b2 := B 161 ^^^ B 176
  let b3 := B 242 ^^^ B 287
  (fun i =>
    if i = 0 then b3 ^^^ (B 285 &&& B 286) ^^^ B 68
    else if i = 93 then b1 ^^^ (B 90 &&& B 91) ^^^ B 170
    else if i = 177 then b2 ^^^ (B 174 &&& B 175) ^^^ B 263
    else B (i - 1), b1 ^^^ b2 ^^^ b3)

/-- `n` steps of the byte-cell form. -/
def byteStepN : Nat → (Nat → Byte) → Nat → Byte
  | 0, B => B
  | n + 1, B => byteStepN n (byteStep B).1

/-- The byte-cell form loads key and IV bytes whole, and the marker as 0x01 (R149). -/
def byteLoad (k v : Vector Byte 80) (m : Config.MarkerCells) (i : Nat) : Byte :=
  if i ∈ m then 0x01#8
  else if h : i < 80 then k[i]
  else if h : 93 ≤ i ∧ i < 173 then v[i - 93]
  else 0x00#8

/-- The keystream byte at the stream's bit `n`: `sum over k of z_{n+k} << k` (R148). -/
def keystreamByteAt (S : Cells) (n : Nat) : Byte :=
  BitVec.ofNat 8 (∑ k ∈ Finset.range 8, (keystreamBit S (n + k)).toNat <<< k)

/-- The commands that take keystream. -/
def takesKeystream : Instr → Bool
  | .stepb => true
  | .ksb => true
  | .xorb _ => true
  | .nop => false
  | .clr => false
  | .keyb _ => false
  | .ivb _ => false
  | .init => false

/-- How many keystream bits a command consumes (R148). -/
def bitsTaken : Instr → Nat
  | .stepb => 1
  | .ksb => 8
  | .xorb _ => 8
  | .nop => 0
  | .clr => 0
  | .keyb _ => 0
  | .ivb _ => 0
  | .init => 0

/-- Commands accepted one after another. -/
def execAll : List Instr → State → Option State
  | [], s => some s
  | i :: is, s =>
    match exec i s with
    | .next t => execAll is t
    | .fault _ => none
    | .refused _ => none

/-- Their responses, in order. -/
def responsesOf : List Instr → State → List RspWord
  | [], _ => []
  | i :: is, s =>
    match exec i s with
    | .next t => t.rsp :: responsesOf is t
    | .fault _ => []
    | .refused _ => []

/-- The responses R148 gives keystream commands on an engine whose next bit is `z_n` of the cells `S`. -/
def expectedResponses (S : Cells) : Nat → List Instr → List RspWord
  | _, [] => []
  | n, .stepb :: is => (if keystreamBit S n then 0x5001#16 else 0x5000#16) :: expectedResponses S (n + 1) is
  | n, .ksb :: is => (0x60#8 ++ keystreamByteAt S n) :: expectedResponses S (n + 8) is
  | n, .xorb d :: is => (0x70#8 ++ (d ^^^ keystreamByteAt S n)) :: expectedResponses S (n + 8) is
  | n, _ :: is => expectedResponses S n is

/-- The data byte of a KEYB command, and of an IVB command. -/
def keyData : Instr → Option Byte
  | .keyb d => some d
  | _ => none
def ivData : Instr → Option Byte
  | .ivb d => some d
  | _ => none

/-- The data bytes of the KEYB commands, and of the IVB commands, of a list. -/
def keyBytes (is : List Instr) : List Byte := is.filterMap keyData
def ivBytes (is : List Instr) : List Byte := is.filterMap ivData

/-- What the host drives for a pseudo-instruction (R97): one command a clock edge. -/
def pseudoPins (p : Pseudo) : List Pins := (expandPseudo p).map fun i => Pins.offer (encode i)

/-- The responses to ENGINE key, iv: OK, 161 times (R110, R111, R112). -/
def engineResponses : List RspWord :=
  List.replicate 80 0x2000#16 ++ List.replicate 80 0x3000#16 ++ [0x4000#16]

/-- No reset is driven. -/
def NoReset (ps : List Pins) : Prop := ∀ p ∈ ps, p.rst = false

/-- A byte in hexadecimal as the spec writes it: two digits, the letters capital (R96). -/
def twoHexDigits (n : Nat) : List Char := [(Nat.digitChar (n / 16)).toUpper, (Nat.digitChar (n % 16)).toUpper]

/-- 80 zero bytes. -/
def zeros : Vector Byte 80 := Vector.replicate 80 0x00#8

end Sys2Proof.Claims

open Sys2Proof Sys2Proof.Machine Sys2Proof.Claims

/-! ## Encoding -/

/-- O1, R93, R96: decoding and encoding are inverse in both directions, for every word and every command. -/
def Obligations.DecodeInvertsEncode : Prop :=
  ∀ (w : CmdWord) (i : Instr), decode w = .ok i ↔ encode i = w

/-- O2, R94: the validity Boolean, its agreement with the decoder, what an accepted invalid word does, and the counts of
valid and invalid words. -/
def Obligations.ValidWordsAreTheDecodedWords : Prop :=
  (∀ w : CmdWord, validWord w = true ↔
    (w.extractLsb' 12 4).toNat ≤ 0x7 ∧ w.extractLsb' 8 4 = 0x0#4 ∧
      (w.extractLsb' 12 4 ∈ [0x2#4, 0x3#4, 0x7#4] ∨ w.extractLsb' 0 8 = 0x00#8)) ∧
  (∀ w : CmdWord, validWord w = true ↔ ∃ i, decode w = .ok i) ∧
  (∀ w : CmdWord, validWord w = false → FailsAsBadCmd w) ∧
  (Finset.univ.filter fun w : CmdWord => validWord w = true).card = 773 ∧
  (Finset.univ.filter fun w : CmdWord => validWord w = false).card = 64763

/-- O3, R93: the match and mask columns; a word decodes to a row's command exactly when it matches the row; the rows are
disjoint; a word with bit 15 set, or one that matches no row, is invalid. -/
def Obligations.OpcodeMapRowsDecide : Prop :=
  EncodedAs 0x0000#16 .nop ∧ EncodedAs 0x1000#16 .clr ∧ EncodedWithData 0x2000#16 .keyb ∧
  EncodedWithData 0x3000#16 .ivb ∧ EncodedAs 0x4000#16 .init ∧ EncodedAs 0x5000#16 .stepb ∧
  EncodedAs 0x6000#16 .ksb ∧ EncodedWithData 0x7000#16 .xorb ∧
  (∀ (w : CmdWord) (i j : Instr), w &&& maskOf i = matchOf i → w &&& maskOf j = matchOf j → matchOf i = matchOf j) ∧
  (∀ w : CmdWord, w &&& 0x8000#16 = 0x8000#16 → validWord w = false) ∧
  (∀ w : CmdWord, (∀ i : Instr, w &&& maskOf i ≠ matchOf i) → validWord w = false)

/-- O4, R93: a few words of the opcode map, and three words that are no command. -/
def Obligations.SpecWordsDecode : Prop :=
  decode 0x0000#16 = .ok .nop ∧ decode 0x1000#16 = .ok .clr ∧ decode 0x20FF#16 = .ok (.keyb 0xFF#8) ∧
  decode 0x3001#16 = .ok (.ivb 0x01#8) ∧ decode 0x4000#16 = .ok .init ∧ decode 0x5000#16 = .ok .stepb ∧
  decode 0x6000#16 = .ok .ksb ∧ decode 0x7048#16 = .ok (.xorb 0x48#8) ∧
  decode 0x4001#16 = .error .dataNotTaken ∧ decode 0x2A00#16 = .error .nonzeroReserved ∧
  decode 0x8000#16 = .error .reservedOpcode

/-- O5, R91: the response word that every accepted word leaves in RSP. The commands that return no data are NOP, CLR,
KEYB, IVB and INIT. -/
def Obligations.ResponseWordFormat : Prop :=
  ∀ s : State, s.accepts = true → ∃ (t : State) (code : BitVec 3) (data : Byte),
    step s = .next t ∧ t.rsp = s.pinsNow.cmd.extractLsb' 12 4 ++ 0#1 ++ code ++ data ∧
    (code ≠ 0#3 → data = 0x00#8) ∧
    (∀ i, decode s.pinsNow.cmd = .ok i → takesKeystream i = false → data = 0x00#8)

/-! ## Clock edges, the handshake, reset -/

/-- O6, R73 (cases 1 to 4): at each edge exactly one thing happens, in this order of precedence. (MARKER_CELLS and the
input list, of which each edge uses the first entry, are the model's own, log entries 1 and 3.) -/
def Obligations.EdgePrecedence : Prop :=
  ∀ s : State,
    (s.pinsNow.rst = true → step s = .next { State.reset with markers := s.markers, pins := s.pins.tail }) ∧
    (s.pinsNow.rst = false → s.phase = .warmup → step s = .next (tick { s with pins := s.pins.tail })) ∧
    (s.pinsNow.rst = false → s.phase ≠ .warmup → s.pinsNow.cmdValid = true →
      (∀ i, decode s.pinsNow.cmd = .ok i → step s = exec i { s with pins := s.pins.tail }) ∧
      (∀ e, decode s.pinsNow.cmd = .error e → step s = .next (badCmd s.pinsNow.cmd { s with pins := s.pins.tail }))) ∧
    (s.pinsNow.rst = false → s.phase ≠ .warmup → s.pinsNow.cmdValid = false →
      step s = .next { s with rspV := false, pins := s.pins.tail })

/-- O7: a step runs the decoded command. When the word on the command port is accepted and decodes to `i`, the step is
`exec i` on the same state with the input of this edge used up (the model's input list, log entry 1). -/
def Obligations.StepRunsTheDecodedCommand : Prop :=
  ∀ (s : State) (i : Instr), s.accepts = true → decode s.pinsNow.cmd = .ok i →
    step s = exec i { s with pins := s.pins.tail }

/-- O8 (the model's own, log entry 4): a word put before the machine by `withFetchWord` is the very next command to run.
Outside WARMUP nothing else changes; in WARMUP the command runs at the end of the hold, on a state that is READY. -/
def Obligations.FetchWordIsTheNextCommand : Prop :=
  ∀ (s : State) (nbits w : Nat) (i : Instr), decodeTableWord nbits w = some i →
    (s.phase ≠ .warmup → step (s.withFetchWord nbits w) = exec i s) ∧
    (s.phase = .warmup → ∃ t : State, t.phase = .ready ∧ t.pins = s.pins ∧ step (s.withFetchWord nbits w) = exec i t)

/-- O9, R72: `cmd_ready`; when a command is accepted; that outside WARMUP an offered word `w` is executed from the port
value at that edge alone, one command an edge, what the host drives later making no difference and staying as it was; and
that an offer made while `cmd_ready` is 0 makes no difference. (What the host drives at the coming edges is the list
`pins`, the model's own form of the ports' values, log entry 1.) -/
def Obligations.CommandAcceptance : Prop :=
  (∀ s : State, s.cmdReady = true ↔ s.pinsNow.rst = false ∧ s.phase ≠ .warmup) ∧
  (∀ s : State, s.accepts = true ↔ s.pinsNow.cmdValid = true ∧ s.cmdReady = true) ∧
  (∀ s : State, s.accepts = true ↔ s.phase ≠ .warmup ∧ ∃ (w : CmdWord) (ps : List Pins), s.pins = Pins.offer w :: ps) ∧
  (∀ (s : State) (w : CmdWord) (ps qs : List Pins), s.phase ≠ .warmup →
    step { s with pins := Pins.offer w :: ps } = accept w { s with pins := ps } ∧
    ∃ t : State, step { s with pins := Pins.offer w :: ps } = .next t ∧ t.rspV = true ∧ t.pins = ps ∧
      step { s with pins := Pins.offer w :: qs } = .next { t with pins := qs }) ∧
  (∀ (s : State) (p q : Pins) (ps : List Pins), p.rst = q.rst → ({ s with pins := p :: ps } : State).cmdReady = false →
    step { s with pins := p :: ps } = step { s with pins := q :: ps } ∧
    ∃ t : State, step { s with pins := p :: ps } = .next t ∧ t.rspV = false)

/-- O10, R37: each accepted command writes RSP and sets RSP_V for exactly one cycle, and RSP is kept until the next
accepted command or reset. -/
def Obligations.ResponseRegister : Prop :=
  (∀ s : State, s.accepts = true → ∃ t : State, step s = .next t ∧ t.rspV = true ∧
    ∃ (code : RespCode) (data : Byte), t.rsp = rspWord s.pinsNow.cmd code data) ∧
  (∀ s : State, s.accepts = false → ∃ t : State, step s = .next t ∧ t.rspV = false ∧
    (s.pinsNow.rst = false → t.rsp = s.rsp)) ∧
  State.reset.rsp = 0x0000#16 ∧ State.reset.rspV = false

/-- O11, R240: the reset edge, in every phase. While `rst` is 1 no command is accepted; every register takes its reset
value at that one edge; STATUS then reads 0, and the engine waits in EMPTY for the first command. What the cells and the
buffers then hold never shows at a port, whatever the host drives. (MARKER_CELLS and the input list are the model's own,
log entries 1 and 3.) -/
def Obligations.ResetEdgeSetsEveryRegister : Prop :=
  ∀ s : State, s.pinsNow.rst = true →
    s.cmdReady = false ∧ s.accepts = false ∧
    ∃ t : State, step s = .next t ∧ (∀ i < 288, cell t.cells i = false) ∧
      (∀ j : Fin 80, t.kbuf[j] = 0x00#8 ∧ t.ibuf[j] = 0x00#8) ∧ t.kcnt = 0#7 ∧ t.icnt = 0#7 ∧
      t.phase = .empty ∧ t.wcnt = 0#11 ∧ t.lastErr = .ok ∧ t.rsp = 0x0000#16 ∧ t.rspV = false ∧
      t.status = 0x00000000#32 ∧ t.markers = s.markers ∧ t.pins = s.pins.tail ∧
      (t.pinsNow.rst = false → t.cmdReady = true) ∧
      (t.pinsNow.rst = false → t.pinsNow.cmdValid = false → step t = .next { t with pins := t.pins.tail }) ∧
      (∀ (n : Nat) (S : Cells) (k v : Vector Byte 80),
        portTrace n { t with cells := S, kbuf := k, ibuf := v } = portTrace n t)

/-- O12, R240's table: the state after reset. (MARKER_CELLS and the input list are the model's own, log entries 1
and 3, and are not in it.) -/
def Obligations.ResetStateHasTheSpecValues : Prop :=
  (∀ i < 288, cell State.reset.cells i = false) ∧
  (∀ j : Fin 80, State.reset.kbuf[j] = 0x00#8 ∧ State.reset.ibuf[j] = 0x00#8) ∧
  State.reset.kcnt = 0#7 ∧ State.reset.icnt = 0#7 ∧ State.reset.phase = .empty ∧ State.reset.wcnt = 0#11 ∧
  State.reset.lastErr = .ok ∧ State.reset.rsp = 0x0000#16 ∧ State.reset.rspV = false ∧
  State.reset.status = 0x00000000#32

/-- O13, R200: every accepted command completes at its edge with exactly one response code, and no edge, whatever the
state and the input, stops the engine; an error does not make it refuse the next command. -/
def Obligations.NoErrorStopsTheEngine : Prop :=
  (∀ s : State, ∃ t : State, step s = .next t) ∧ (∀ s : State, NeverStops s) ∧
  (∀ s : State, s.accepts = true → ∃ t : State, step s = .next t ∧ t.rspV = true ∧
    (∃! code : RespCode, rspCode t.rsp = code.bits) ∧
    (rspCode t.rsp ≠ 0#3 → t.pinsNow.rst = false → t.pinsNow.cmdValid = true → t.accepts = true))

/-! ## Whole-machine invariants -/

/-- O14: the invariant holds after reset, for every well-formed MARKER_CELLS and whatever the host drives. -/
def Obligations.ResetMeetsTheInvariant : Prop :=
  State.reset.Inv ∧
  ∀ (m : Config.MarkerCells) (ps : List Pins), m.wf = true → ({ State.reset with markers := m, pins := ps } : State).Inv

/-- O15: every step keeps the invariant, from every state that meets it. -/
def Obligations.StepKeepsTheInvariant : Prop :=
  ∀ s t : State, s.Inv → step s = .next t → t.Inv

/-- O16, R38: the layout of STATUS, its value after reset, and the legal values of its fields in every state that meets
the invariant. -/
def Obligations.StatusWordLayout : Prop :=
  (∀ s : State,
    s.status.extractLsb' 0 2 = s.phase.bits ∧
    (s.status.getLsbD 2 = true ↔ s.phase = .warmup) ∧
    s.status.getLsbD 3 = false ∧
    s.status.extractLsb' 4 7 = s.kcnt ∧
    s.status.extractLsb' 11 7 = s.icnt ∧
    s.status.extractLsb' 18 11 = s.wcnt ∧
    s.status.extractLsb' 29 3 = s.lastErr.bits) ∧
  State.reset.status = 0x00000000#32 ∧
  (∀ s : State, s.Inv →
    (s.status.extractLsb' 0 2).toNat ≤ 2 ∧ (s.status.extractLsb' 4 7).toNat ≤ 81 ∧
    (s.status.extractLsb' 11 7).toNat ≤ 81 ∧ (s.status.extractLsb' 18 11).toNat ≤ 1152 ∧
    (s.status.extractLsb' 29 3).toNat ≤ 4) ∧
  ((Phase.empty.bits = 0#2) ∧ (Phase.warmup.bits = 1#2) ∧ (Phase.ready.bits = 2#2))

/-- O17, R34 (writers of PHASE): every change of PHASE, by what causes it. -/
def Obligations.PhaseChangesOnlyAsSpecified : Prop :=
  ∀ s t : State, step s = .next t → t.phase ≠ s.phase →
    (t.phase = .warmup ∧ Accepted 0x4000#16 s ∧ s.kcnt = 80#7 ∧ s.icnt = 80#7) ∨
    (t.phase = .ready ∧ s.phase = .warmup ∧ s.pinsNow.rst = false ∧ s.wcnt = 1151#11) ∨
    (t.phase = .empty ∧ (s.pinsNow.rst = true ∨ Accepted 0x1000#16 s))

/-- O18, R39: BUSY is set when INIT succeeds and cleared only by the tick that completes warm-up or by reset; CLR cannot
clear it; the response code is written by every accepted command. -/
def Obligations.BusyIsSetAndClearedOnlyAsSpecified : Prop :=
  (∀ s : State, s.busy = s.status.getLsbD 2) ∧
  (∀ s t : State, step s = .next t →
    ((s.busy = false ∧ t.busy = true) ↔ (Accepted 0x4000#16 s ∧ s.kcnt = 80#7 ∧ s.icnt = 80#7)) ∧
    ((s.busy = true ∧ t.busy = false) ↔ (s.busy = true ∧ (s.pinsNow.rst = true ∨ s.wcnt = 1151#11)))) ∧
  (∀ s : State, s.busy = true → ¬ Accepted 0x1000#16 s) ∧
  (∀ s : State, s.accepts = true → ∃ (t : State) (code : RespCode), step s = .next t ∧ t.rsp.extractLsb' 8 3 = code.bits)

/-- O19, R30 (writers of S): what an edge can do to the cells, and by which cause. Nothing else writes them; none steps
backwards. -/
def Obligations.CellsAreWrittenOnlyAsSpecified : Prop :=
  ∀ s t : State, step s = .next t →
    (s.pinsNow.rst = true ∧ t.cells = 0#288) ∨
    (s.pinsNow.rst = false ∧ s.phase = .warmup ∧ t.cells = (stepCells s.cells).1) ∨
    (Accepted 0x1000#16 s ∧ t.cells = 0#288) ∨
    (Accepted 0x4000#16 s ∧ s.kcnt = 80#7 ∧ s.icnt = 80#7 ∧ t.cells = loadCells s.kbuf s.ibuf s.markers) ∨
    (Accepted 0x5000#16 s ∧ s.phase = .ready ∧ t.cells = stepN 1 s.cells) ∨
    (Accepted 0x6000#16 s ∧ s.phase = .ready ∧ t.cells = stepN 8 s.cells) ∨
    ((∃ d : Byte, Accepted (0x70#8 ++ d) s) ∧ s.phase = .ready ∧ t.cells = stepN 8 s.cells) ∨
    t.cells = s.cells

/-- O20, R43: the cells are seen only through the keystream commands in READY, and the contents of the buffers not at
all at one edge: states that differ only there show the same ports. -/
def Obligations.HiddenStateIsNotShown : Prop :=
  (∀ (s : State) (S : Cells) (k v : Vector Byte 80),
    ({ s with cells := S, kbuf := k, ibuf := v } : State).ports = s.ports) ∧
  (∀ (s t t' : State) (S : Cells), step s = .next t → step { s with cells := S } = .next t' →
    ¬ (s.accepts = true ∧ s.phase = .ready ∧ ∃ i, decode s.pinsNow.cmd = .ok i ∧ takesKeystream i = true) →
    t' = { t with cells := t'.cells }) ∧
  (∀ (s t t' : State) (k v : Vector Byte 80), step s = .next t → step { s with kbuf := k, ibuf := v } = .next t' →
    t' = { t with kbuf := t'.kbuf, ibuf := t'.ibuf, cells := t'.cells } ∧
    (¬ (Accepted 0x4000#16 s) → t'.cells = t.cells))

/-- O21, R7 (the model's field, log entry 3): no step changes MARKER_CELLS. -/
def Obligations.MarkerCellsAreFixed : Prop :=
  ∀ (n : Nat) (s t : State), Runs n s t → t.markers = s.markers

/-! ## The loader -/

/-- O22, R110: KEYB, with its corner cases: the 81st and later bytes, the only commands that lower the count, and the one
bit of a byte that INIT loads. -/
def Obligations.KeybAppendsOneKeyByte : Prop :=
  EncodedWithData 0x2000#16 .keyb ∧ (∀ d : Byte, AcceptedInEmptyAndReady (0x20#8 ++ d)) ∧
  (∀ (i : Instr) (s t : State), s.kcnt.toNat ≤ 81 → exec i s = .next t → t.kcnt.toNat < s.kcnt.toNat →
    i = .init ∨ i = .clr) ∧
  (∀ (k k' v : Vector Byte 80) (m : Config.MarkerCells), (∀ j : Fin 80, k[j].getLsbD 0 = k'[j].getLsbD 0) →
    loadCells k v m = loadCells k' v m) ∧
  ∀ (d : Byte) (s : State), ∃ t : State, exec (.keyb d) s = .next t ∧
    t = { s with kbuf := t.kbuf, kcnt := t.kcnt, rsp := 0x2000#16, rspV := true } ∧
    (s.kcnt.toNat < 80 → t.kcnt.toNat = s.kcnt.toNat + 1 ∧
      ∀ j : Fin 80, t.kbuf[j] = if j.val = s.kcnt.toNat then d else s.kbuf[j]) ∧
    (80 ≤ s.kcnt.toNat → t.kcnt = 81#7 ∧ t.kbuf = s.kbuf) ∧
    t.status.extractLsb' 4 7 = t.kcnt

/-- O23, R111: IVB, with its corner cases: those of KEYB, and that the order between a key byte and an IV byte makes no
difference (but for the response word last in RSP) while the order within a stream does. -/
def Obligations.IvbAppendsOneIvByte : Prop :=
  EncodedWithData 0x3000#16 .ivb ∧ (∀ d : Byte, AcceptedInEmptyAndReady (0x30#8 ++ d)) ∧
  (∀ (i : Instr) (s t : State), s.icnt.toNat ≤ 81 → exec i s = .next t → t.icnt.toNat < s.icnt.toNat →
    i = .init ∨ i = .clr) ∧
  (∀ (k v v' : Vector Byte 80) (m : Config.MarkerCells), (∀ j : Fin 80, v[j].getLsbD 0 = v'[j].getLsbD 0) →
    loadCells k v m = loadCells k v' m) ∧
  (∀ (d e : Byte) (s : State), ∃ t u : State, execAll [.keyb d, .ivb e] s = some t ∧
    execAll [.ivb e, .keyb d] s = some u ∧ u = { t with rsp := u.rsp }) ∧
  (∃ (d e : Byte) (s : State), execAll [.ivb d, .ivb e] s ≠ execAll [.ivb e, .ivb d] s) ∧
  ∀ (d : Byte) (s : State), ∃ t : State, exec (.ivb d) s = .next t ∧
    t = { s with ibuf := t.ibuf, icnt := t.icnt, rsp := 0x3000#16, rspV := true } ∧
    (s.icnt.toNat < 80 → t.icnt.toNat = s.icnt.toNat + 1 ∧
      ∀ j : Fin 80, t.ibuf[j] = if j.val = s.icnt.toNat then d else s.ibuf[j]) ∧
    (80 ≤ s.icnt.toNat → t.icnt = 81#7 ∧ t.ibuf = s.ibuf) ∧
    t.status.extractLsb' 11 7 = t.icnt

/-- O24, R75 (items 1 and 2), R111, R249: KEYB and IVB commands in any interleaving, from empty buffers: the j-th byte of
each stream lands in entry j, the counts saturate at 81, and nothing else but RSP and RSP_V changes. -/
def Obligations.InterleavedLoadKeepsEachOrder : Prop :=
  ∀ (is : List Instr) (s : State), (∀ i ∈ is, ∃ d, i = .keyb d ∨ i = .ivb d) → s.kcnt = 0#7 → s.icnt = 0#7 →
    ∃ t : State, execAll is s = some t ∧
      t = { s with kbuf := t.kbuf, kcnt := t.kcnt, ibuf := t.ibuf, icnt := t.icnt, rsp := t.rsp, rspV := t.rspV } ∧
      t.kcnt.toNat = min (keyBytes is).length 81 ∧ t.icnt.toNat = min (ivBytes is).length 81 ∧
      (∀ j : Fin 80, t.kbuf[j] = ((keyBytes is)[j.val]?).getD s.kbuf[j]) ∧
      (∀ j : Fin 80, t.ibuf[j] = ((ivBytes is)[j.val]?).getD s.ibuf[j])

/-- O25, R112: INIT. Both length failures, the successful construction with the table of its cells, an invalid INIT word,
and the rule's example. -/
def Obligations.InitConstructsAnEngine : Prop :=
  EncodedAs 0x4000#16 .init ∧ AcceptedInEmptyAndReady 0x4000#16 ∧ OtherwiseBadCmd 0x4#4 0x4000#16 ∧
  (∀ s : State, s.kcnt ≠ 80#7 → exec .init s = .next { s with
    kbuf := zeros, kcnt := 0#7, ibuf := zeros, icnt := 0#7, rsp := 0x4100#16, rspV := true,
    lastErr := .invalidKeyLength }) ∧
  (∀ s : State, s.kcnt = 80#7 → s.icnt ≠ 80#7 → exec .init s = .next { s with
    kbuf := zeros, kcnt := 0#7, ibuf := zeros, icnt := 0#7, rsp := 0x4200#16, rspV := true,
    lastErr := .invalidIvLength }) ∧
  (∀ s : State, s.kcnt = 80#7 → s.icnt = 80#7 → s.markers.wf = true → ∃ t : State, exec .init s = .next t ∧
    t = { s with
      cells := t.cells, kbuf := zeros, kcnt := 0#7, ibuf := zeros, icnt := 0#7, wcnt := 0#11, phase := .warmup,
      rsp := 0x4000#16, rspV := true } ∧
    t.busy = true ∧
    (∀ j : Fin 80, cell t.cells j = s.kbuf[j].getLsbD 0) ∧
    (∀ i, 80 ≤ i → i < 93 → cell t.cells i = false) ∧
    (∀ j : Fin 80, cell t.cells (93 + j) = s.ibuf[j].getLsbD 0) ∧
    (∀ i, 173 ≤ i → i < 288 → (cell t.cells i = true ↔ i ∈ s.markers)) ∧
    t.cells ≠ 0#288) ∧
  (∀ s : State, s.kcnt = 80#7 → s.icnt = 80#7 → s.kbuf = zeros → s.ibuf = zeros → s.markers = Config.markersDoc →
    s.lastErr = .ok → ∃ t : State, exec .init s = .next t ∧ t.rsp = 0x4000#16 ∧ t.status = 0x00000005#32 ∧
    ∀ i < 288, (cell t.cells i = true ↔ i = 287))

/-- O26, R202: INVALID_KEY_LENGTH. -/
def Obligations.InvalidKeyLengthError : Prop :=
  ∀ s : State, Accepted 0x4000#16 s → ∃ t : State, step s = .next t ∧
    (rspCode t.rsp = 1#3 ↔ s.kcnt ≠ 80#7) ∧
    (s.kcnt ≠ 80#7 → rspData t.rsp = 0x00#8 ∧ t.lastErr = .invalidKeyLength ∧ t.kcnt = 0#7 ∧ t.icnt = 0#7 ∧
      t.kbuf = zeros ∧ t.ibuf = zeros ∧ t.cells = s.cells ∧ t.phase = s.phase ∧ t.wcnt = s.wcnt)

/-- O27, R203: INVALID_IV_LENGTH. -/
def Obligations.InvalidIvLengthError : Prop :=
  ∀ s : State, Accepted 0x4000#16 s → ∃ t : State, step s = .next t ∧
    (rspCode t.rsp = 2#3 ↔ s.kcnt = 80#7 ∧ s.icnt ≠ 80#7) ∧
    (s.kcnt = 80#7 → s.icnt ≠ 80#7 → rspData t.rsp = 0x00#8 ∧ t.lastErr = .invalidIvLength ∧ t.kcnt = 0#7 ∧
      t.icnt = 0#7 ∧ t.kbuf = zeros ∧ t.ibuf = zeros ∧ t.cells = s.cells ∧ t.phase = s.phase ∧ t.wcnt = s.wcnt)

/-- O28, R247: every INIT, successful or failed, consumes both buffers; an INIT word with D != 0 is BAD_CMD and consumes
nothing. -/
def Obligations.InitConsumesTheBuffers : Prop :=
  (∀ s : State, ∃ t : State, exec .init s = .next t ∧ t.kbuf = zeros ∧ t.ibuf = zeros ∧ t.kcnt = 0#7 ∧ t.icnt = 0#7) ∧
  (∀ (d : Byte) (s : State), d ≠ 0x00#8 → Accepted (0x40#8 ++ d) s → ∃ t : State, step s = .next t ∧
    rspCode t.rsp = 4#3 ∧ t.kbuf = s.kbuf ∧ t.ibuf = s.ibuf ∧ t.kcnt = s.kcnt ∧ t.icnt = s.icnt)

/-- O29, R110 and R111 (corner cases), R249: in a state that meets the invariant, only reset, an accepted INIT and an
accepted CLR lower a count. -/
def Obligations.OnlyInitClrAndResetLowerTheCounts : Prop :=
  ∀ s t : State, s.Inv → step s = .next t → (t.kcnt.toNat < s.kcnt.toNat ∨ t.icnt.toNat < s.icnt.toNat) →
    s.pinsNow.rst = true ∨ Accepted 0x4000#16 s ∨ Accepted 0x1000#16 s

/-- O30, R112 corner case 2, R149, I8: bits 7 to 1 of the staged key and IV bytes never show at the ports, however long
the run and whatever the host drives. -/
def Obligations.UpperKeyAndIvBitsNeverShow : Prop :=
  ∀ (n : Nat) (s : State) (k v : Vector Byte 80),
    (∀ j : Fin 80, k[j].getLsbD 0 = s.kbuf[j].getLsbD 0 ∧ v[j].getLsbD 0 = s.ibuf[j].getLsbD 0) →
    portTrace n { s with kbuf := k, ibuf := v } = portTrace n s

/-! ## Warm-up -/

/-- O31, R130: the warm-up tick. (That the edge uses one entry of the input list is the model's own, log entry 1.) -/
def Obligations.WarmupTick : Prop :=
  ∀ s : State, s.pinsNow.rst = false → s.phase = .warmup → ∃ t : State, step s = .next t ∧
    t = { s with cells := (stepCells s.cells).1, wcnt := s.wcnt + 1#11, phase := t.phase, rspV := false,
                 pins := s.pins.tail } ∧
    (s.wcnt = 1151#11 → t.wcnt = 1152#11 ∧ t.phase = .ready ∧ t.status.getLsbD 2 = false ∧
      (t.pinsNow.rst = false → t.cmdReady = true)) ∧
    (s.wcnt ≠ 1151#11 → t.phase = .warmup) ∧
    (s.Inv → t.wcnt.toNat = s.wcnt.toNat + 1 ∧ t.wcnt.toNat ≤ 1152)

/-- O32, R132: warm-up timing. A successful INIT is accepted at edge e0, and no reset is driven at the 1152 edges that
follow. After edge e_k the engine has made k warm-up steps from the loaded cells and WCNT is k; BUSY and the phase
change after e1152; RSP_V is 1 after e0, carrying INIT's response, and 0 after every tick. -/
def Obligations.WarmupTakes1152Ticks : Prop :=
  ∀ (s : State) (hold rest : List Pins), Accepted 0x4000#16 s → s.kcnt = 80#7 → s.icnt = 80#7 →
    s.pins.tail = hold ++ rest → hold.length = 1152 → NoReset hold →
    (∃ t : State, Runs 1 s t ∧ t.rspV = true ∧ t.rsp = 0x4000#16 ∧ t.wcnt = 0#11 ∧ t.phase = .warmup) ∧
    (∀ k, 1 ≤ k → k ≤ 1152 → ∃ t : State, Runs (1 + k) s t ∧ t.wcnt.toNat = k ∧ t.rspV = false ∧ t.rsp = 0x4000#16 ∧
      t.cells = stepN k (loadCells s.kbuf s.ibuf s.markers) ∧
      (k < 1152 → t.phase = .warmup ∧ t.cmdReady = false) ∧
      (k = 1152 → t.phase = .ready ∧ t.pins = rest ∧ (t.pinsNow.rst = false → t.cmdReady = true) ∧
        (∀ w, t.pinsNow = Pins.offer w → Accepted w t)))

/-- O33, R133: only reset ends warm-up early, and a failed INIT never enters it. -/
def Obligations.OnlyResetEndsWarmupEarly : Prop :=
  (∀ s : State, s.phase = .warmup → s.accepts = false) ∧
  (∀ s t : State, s.phase = .warmup → step s = .next t → t.phase ≠ .warmup → s.wcnt ≠ 1151#11 →
    s.pinsNow.rst = true) ∧
  (∀ s : State, s.phase = .warmup → s.pinsNow.rst = true → ∃ t : State, step s = .next t ∧ t.phase = .empty ∧
    t.cells = 0#288 ∧ t.wcnt = 0#11) ∧
  (∀ s t : State, s.phase ≠ .warmup → exec .init s = .next t → rspCode t.rsp ≠ 0#3 → t.phase = s.phase)

/-! ## The step function -/

/-- O34, R140, R141, R142: the output bit, the three feedback bits and the next state, cell by cell. -/
def Obligations.StepFunctionCellByCell : Prop :=
  ∀ S : Cells,
    (stepCells S).2 = (t1 S ^^ t2 S ^^ t3 S) ∧
    cell (stepCells S).1 0 = f3 S ∧ cell (stepCells S).1 93 = f1 S ∧ cell (stepCells S).1 177 = f2 S ∧
    (∀ i ∈ [0, 93, 177], i ∉ cellsRead) ∧
    ∀ i, 1 ≤ i → i < 288 → i ≠ 93 → i ≠ 177 → cell (stepCells S).1 i = cell S (i - 1)

/-- O35, R143: a rotation followed by the injections, and a circular buffer with a moving head, give the same next state
as the shift. -/
def Obligations.ShiftRotationAndCircularBufferAgree : Prop :=
  (∀ S : Cells, setCell (setCell (setCell (S.rotateLeft 1) 0 (f3 S)) 93 (f1 S)) 177 (f2 S) = (stepCells S).1) ∧
  (∀ (S : Cells) (P : Nat → Bool) (h : Nat), h < 288 → (∀ i < 288, logical P h i = cell S i) →
    ∀ i < 288, logical (circularStep S P h).1 (circularStep S P h).2 i = cell (stepCells S).1 i) ∧
  (∀ (S : Cells) (i : Nat), 0 < i → i < 288 → i ≠ 93 → i ≠ 177 → cell (stepCells S).1 i = cell S (i - 1))

/-- O36, R144: the all-zero state is a fixed point that emits 0 only; `Step` is a bijection, with the inverse the rule's
formulas give; and no edge steps the cells backwards unless it clears or loads them. -/
def Obligations.StepIsABijection : Prop :=
  stepCells 0#288 = (0#288, false) ∧ (∀ n, keystreamBit 0#288 n = false) ∧
  Function.Bijective (fun S : Cells => (stepCells S).1) ∧
  (∀ S : Cells, stepBack (stepCells S).1 = S) ∧ (∀ N : Cells, (stepCells (stepBack N)).1 = N) ∧
  (∀ S : Cells,
    (∀ i < 287, i ≠ 92 → i ≠ 176 → cell S i = cell (stepCells S).1 (i + 1)) ∧
    cell S 92 = (cell (stepCells S).1 93 ^^ cell S 65 ^^ (cell S 90 && cell S 91) ^^ cell S 170) ∧
    cell S 176 = (cell (stepCells S).1 177 ^^ cell S 161 ^^ (cell S 174 && cell S 175) ^^ cell S 263) ∧
    cell S 287 = (cell (stepCells S).1 0 ^^ cell S 242 ^^ (cell S 285 && cell S 286) ^^ cell S 68)) ∧
  (∀ s t : State, step s = .next t → t.cells = s.cells ∨ t.cells = 0#288 ∨
    t.cells = loadCells s.kbuf s.ibuf s.markers ∨ ∃ n, n ∈ [1, 8] ∧ t.cells = stepN n s.cells)

/-- O37, R145: `Step` reads 15 distinct cells; the output bit depends on the six output taps of the old state alone; the
three injected cells depend on the 15 alone, and each of these is read; and all 288 cells of the next state are written:
every cell but the injected ones takes its lower neighbour, and each cell can come out other than it was. -/
def Obligations.StepReadsFifteenCells : Prop :=
  cellsRead.length = 15 ∧ cellsRead.Nodup ∧
  (∀ S T : Cells, (∀ i ∈ outputTaps, cell S i = cell T i) → (stepCells S).2 = (stepCells T).2) ∧
  (∀ S T : Cells, (∀ i ∈ cellsRead, cell S i = cell T i) →
    ∀ i ∈ [0, 93, 177], cell (stepCells S).1 i = cell (stepCells T).1 i) ∧
  (∀ j ∈ cellsRead, ∃ S T : Cells, (∀ i ≠ j, cell S i = cell T i) ∧
    ((stepCells S).2 ≠ (stepCells T).2 ∨ ∃ i ∈ [0, 93, 177], cell (stepCells S).1 i ≠ cell (stepCells T).1 i)) ∧
  (∀ (S : Cells) (i : Nat), i < 288 → i ∉ [0, 93, 177] → cell (stepCells S).1 i = cell S (i - 1)) ∧
  (∀ i < 288, ∃ S : Cells, cell (stepCells S).1 i ≠ cell S i)

/-- O38, R149: the byte-cell form. Its bit plane 0 is the one-bit state after the load and after every number of steps,
the other planes never reach it, and so it gives the same keystream. -/
def Obligations.ByteCellsGiveTheSameKeystream : Prop :=
  (∀ (k v : Vector Byte 80) (m : Config.MarkerCells) (n i : Nat), i < 288 →
    (byteStepN n (byteLoad k v m) i).getLsbD 0 = cell (stepN n (loadCells k v m)) i) ∧
  (∀ (k v : Vector Byte 80) (m : Config.MarkerCells) (n : Nat),
    (byteStep (byteStepN n (byteLoad k v m))).2.getLsbD 0 = keystreamBit (loadCells k v m) n) ∧
  (∀ (B C : Nat → Byte), (∀ i < 288, (B i).getLsbD 0 = (C i).getLsbD 0) → ∀ (n i : Nat), i < 288 →
    (byteStepN n B i).getLsbD 0 = (byteStepN n C i).getLsbD 0)

/-! ## The keystream commands -/

/-- O39, R146: STEPB, with the rule's example (the key and IV patterns are spec/95_test_vectors.md ALT and PAIR). -/
def Obligations.StepbReturnsOneKeystreamBit : Prop :=
  EncodedAs 0x5000#16 .stepb ∧ AcceptedInEmptyAndReady 0x5000#16 ∧ OtherwiseBadCmd 0x5#4 0x5000#16 ∧
  (∀ s : State, s.phase ≠ .ready →
    exec .stepb s = .next { s with rsp := 0x5300#16, rspV := true, lastErr := .notReady }) ∧
  (∀ s : State, s.phase = .ready → exec .stepb s = .next { s with
    cells := (stepCells s.cells).1, rsp := if (stepCells s.cells).2 then 0x5001#16 else 0x5000#16, rspV := true }) ∧
  (∀ s : State, s.phase = .ready →
    s.cells = stepN 1152 (loadCells (Vector.ofFn fun j => BitVec.ofNat 8 (j.val % 2))
      (Vector.ofFn fun j => if 2 ≤ j.val % 4 then 0x01#8 else 0x00#8) Config.markersDoc) →
    responsesOf [.stepb, .stepb, .stepb] s = [0x5000#16, 0x5001#16, 0x5000#16])

/-- O40, R147: KSB, with the rule's example. -/
def Obligations.KsbReturnsOneKeystreamByte : Prop :=
  EncodedAs 0x6000#16 .ksb ∧ AcceptedInEmptyAndReady 0x6000#16 ∧ OtherwiseBadCmd 0x6#4 0x6000#16 ∧
  (∀ s : State, s.phase ≠ .ready →
    exec .ksb s = .next { s with rsp := 0x6300#16, rspV := true, lastErr := .notReady }) ∧
  (∀ s : State, s.phase = .ready → ∃ b : Byte,
    exec .ksb s = .next { s with cells := stepN 8 s.cells, rsp := 0x60#8 ++ b, rspV := true } ∧
    ∀ k < 8, b.getLsbD k = (stepCells (stepN k s.cells)).2) ∧
  (∀ s : State, s.phase = .ready → s.cells = stepN 1152 (loadCells zeros zeros Config.markersDoc) →
    responsesOf [.ksb, .ksb] s = [0x6000#16, 0x6012#16])

/-- O41, R170: XORB, with the rule's example. The keystream byte is the one KSB would have returned. -/
def Obligations.XorbCombinesOneDataByte : Prop :=
  EncodedWithData 0x7000#16 .xorb ∧ (∀ d : Byte, AcceptedInEmptyAndReady (0x70#8 ++ d)) ∧
  (∀ w : CmdWord, w.extractLsb' 12 4 = 0x7#4 → w.extractLsb' 8 4 ≠ 0x0#4 → FailsAsBadCmd w) ∧
  (∀ (d : Byte) (s : State), s.phase ≠ .ready →
    exec (.xorb d) s = .next { s with rsp := 0x7300#16, rspV := true, lastErr := .notReady }) ∧
  (∀ (d : Byte) (s : State), s.phase = .ready → ∃ b : Byte,
    exec (.xorb d) s = .next { s with cells := stepN 8 s.cells, rsp := 0x70#8 ++ (d ^^^ b), rspV := true } ∧
    (∀ k < 8, b.getLsbD k = (stepCells (stepN k s.cells)).2) ∧
    exec .ksb s = .next { s with cells := stepN 8 s.cells, rsp := 0x60#8 ++ b, rspV := true }) ∧
  (∀ s : State, s.phase = .ready → s.cells = stepN 1152 (loadCells zeros zeros Config.markersDoc) →
    responsesOf [.xorb 0x48#8, .xorb 0x69#8] s = [0x7048#16, 0x707B#16])

/-- O42, R148: the keystream of an engine. A list of keystream commands, accepted where `n` bits have been consumed,
returns the bits from `z_n` on in strict order; the loaded cells, and so the keystream, depend on the key bits, the IV
bits and MARKER_CELLS alone; what is pulled first does not depend on what is pulled later; and the stream has no end. -/
def Obligations.KeystreamIsConsumedInOrder : Prop :=
  (∀ (S : Cells) (n : Nat) (is : List Instr) (s : State), s.phase = .ready → s.cells = stepN n S →
    (∀ i ∈ is, takesKeystream i = true) → ∃ t : State, execAll is s = some t ∧ t.phase = .ready ∧
      t.cells = stepN (n + (is.map bitsTaken).sum) S ∧ responsesOf is s = expectedResponses S n is) ∧
  (∀ (k k' v v' : Vector Byte 80) (m : Config.MarkerCells),
    (∀ j : Fin 80, k[j].getLsbD 0 = k'[j].getLsbD 0 ∧ v[j].getLsbD 0 = v'[j].getLsbD 0) →
    ∀ n, keystreamBit (stepN 1152 (loadCells k v m)) n = keystreamBit (stepN 1152 (loadCells k' v' m)) n) ∧
  (∀ (is js : List Instr) (s : State), s.phase = .ready → (∀ i ∈ is ++ js, takesKeystream i = true) →
    (responsesOf (is ++ js) s).take is.length = responsesOf is s ∧ (responsesOf (is ++ js) s).length = (is ++ js).length)

/-- O43, R171: the round trip. An engine constructed from a key and an IV by ENGINE (80 KEYB, 80 IVB, INIT), and held through
warm-up (whatever is offered meanwhile), answers the bytes P with bytes C; every engine constructed from the same key and
IV, with the same MARKER_CELLS, answers C with P. -/
def Obligations.XorbRoundTrip : Prop :=
  ∀ (s : State) (k v : Vector Byte 80) (hold : List Pins) (P : List Byte),
    s.phase ≠ .warmup → s.kcnt = 0#7 → s.icnt = 0#7 → hold.length = 1152 → NoReset hold →
    s.pins = pseudoPins (.engine k v) ++ hold ++ pseudoPins (.enc P) →
    ∃ C : List Byte, C.length = P.length ∧
      responses (161 + 1152 + P.length) s = engineResponses ++ C.map (fun c => 0x70#8 ++ c) ∧
      ∀ (s' : State) (hold' : List Pins),
        s'.phase ≠ .warmup → s'.kcnt = 0#7 → s'.icnt = 0#7 → s'.markers = s.markers → hold'.length = 1152 →
        NoReset hold' → s'.pins = pseudoPins (.engine k v) ++ hold' ++ pseudoPins (.dec C) →
        responses (161 + 1152 + C.length) s' = engineResponses ++ P.map (fun p => 0x70#8 ++ p)

/-! ## Control commands and errors -/

/-- O44, R180: NOP. -/
def Obligations.NopOnlyResponds : Prop :=
  EncodedAs 0x0000#16 .nop ∧ AcceptedInEmptyAndReady 0x0000#16 ∧ OtherwiseBadCmd 0x0#4 0x0000#16 ∧
  ∀ s : State, exec .nop s = .next { s with rsp := 0x0000#16, rspV := true }

/-- O45, R181: CLR. What it leaves is the reset state but for RSP and RSP_V. (MARKER_CELLS and the input list are the
model's own and stay, log entries 1 and 3.) -/
def Obligations.ClrDestroysTheEngine : Prop :=
  EncodedAs 0x1000#16 .clr ∧ AcceptedInEmptyAndReady 0x1000#16 ∧ OtherwiseBadCmd 0x1#4 0x1000#16 ∧
  ∀ s : State, ∃ t : State, exec .clr s = .next t ∧
    t = { State.reset with markers := s.markers, pins := s.pins, rsp := 0x1000#16, rspV := true } ∧
    t.status = 0x00000000#32

/-- O46, R201: which code each accepted word completes with, and why. The codes 5 to 7 are never produced. -/
def Obligations.ResponseCodesHaveTheirCauses : Prop :=
  (RespCode.ok.bits = 0#3 ∧ RespCode.invalidKeyLength.bits = 1#3 ∧ RespCode.invalidIvLength.bits = 2#3 ∧
    RespCode.notReady.bits = 3#3 ∧ RespCode.badCmd.bits = 4#3) ∧
  ∀ s : State, s.accepts = true → ∃ t : State, step s = .next t ∧ (rspCode t.rsp).toNat ≤ 4 ∧
    (rspCode t.rsp = 4#3 ↔ validWord s.pinsNow.cmd = false) ∧
    (rspCode t.rsp = 1#3 ↔ decode s.pinsNow.cmd = .ok .init ∧ s.kcnt ≠ 80#7) ∧
    (rspCode t.rsp = 2#3 ↔ decode s.pinsNow.cmd = .ok .init ∧ s.kcnt = 80#7 ∧ s.icnt ≠ 80#7) ∧
    (rspCode t.rsp = 3#3 ↔ (∃ i, decode s.pinsNow.cmd = .ok i ∧ takesKeystream i = true) ∧ s.phase = .empty)

/-- O47, R204: NOT_READY. (That the edge uses one entry of the input list is the model's own, log entry 1.) -/
def Obligations.NotReadyError : Prop :=
  (∀ (s : State) (i : Instr), takesKeystream i = true → s.accepts = true → decode s.pinsNow.cmd = .ok i →
    s.phase = .empty → step s = .next { s with
      rsp := s.pinsNow.cmd.extractLsb' 12 4 ++ 0#1 ++ 3#3 ++ 0x00#8, rspV := true, lastErr := .notReady,
      pins := s.pins.tail }) ∧
  (∀ s t : State, step s = .next t → t.rspV = true → rspCode t.rsp = 3#3 → s.phase = .empty) ∧
  (∀ s : State, s.phase = .warmup → s.accepts = false)

/-- O48, R205: BAD_CMD, for every accepted invalid word, whatever the phase and the buffers; and the rule's example. -/
def Obligations.BadCmdError : Prop :=
  (∀ w : CmdWord, (∀ i, decode w ≠ .ok i) → FailsAsBadCmd w) ∧
  (∀ w : CmdWord, (∀ i, decode w ≠ .ok i) ↔
    (0x8 ≤ (w.extractLsb' 12 4).toNat ∨ w.extractLsb' 8 4 ≠ 0x0#4 ∨
      (w.extractLsb' 12 4 ∈ [0x0#4, 0x1#4, 0x4#4, 0x5#4, 0x6#4] ∧ w.extractLsb' 0 8 ≠ 0x00#8))) ∧
  (∀ (w : CmdWord) (s : State), w.extractLsb' 12 4 = 0x9#4 → Accepted w s → ∃ t : State, step s = .next t ∧
    t.rsp = 0x9400#16)

/-- O49, R206: `respond`: every command writes RSP once, with the opcode of its word, sets RSP_V, and applies the
LAST_ERR rule; a command that fails has DATA 0x00. -/
def Obligations.EveryCommandResponds : Prop :=
  ∀ (i : Instr) (s : State), ∃ (t : State) (code : RespCode) (data : Byte), exec i s = .next t ∧
    t.rsp = (encode i).extractLsb' 12 4 ++ 0#1 ++ code.bits ++ data ∧ t.rspV = true ∧
    (code ≠ .ok → data = 0x00#8 ∧ t.lastErr = code) ∧
    (code = .ok → t.lastErr = if i = .clr then .ok else s.lastErr)

/-- O50, R207: priority among the errors. -/
def Obligations.ErrorPriority : Prop :=
  (∀ s : State, s.accepts = true → validWord s.pinsNow.cmd = false → ∃ t : State, step s = .next t ∧
    rspCode t.rsp = 4#3) ∧
  (∀ s : State, s.accepts = true → validWord s.pinsNow.cmd = true →
    s.pinsNow.cmd.extractLsb' 12 4 ∈ [0x5#4, 0x6#4, 0x7#4] → s.phase = .empty → ∃ t : State, step s = .next t ∧
    rspCode t.rsp = 3#3) ∧
  (∀ s : State, Accepted 0x4000#16 s → s.kcnt ≠ 80#7 → s.icnt ≠ 80#7 → ∃ t : State, step s = .next t ∧
    rspCode t.rsp = 1#3)

/-- O51, R208: LAST_ERR, at every edge. -/
def Obligations.LastErrIsSticky : Prop :=
  ∀ s t : State, step s = .next t →
    (s.pinsNow.rst = true → t.lastErr = .ok) ∧
    (s.accepts = true → rspCode t.rsp ≠ 0#3 → t.lastErr.bits = rspCode t.rsp) ∧
    (s.accepts = true → rspCode t.rsp = 0#3 →
      t.lastErr = if decode s.pinsNow.cmd = .ok .clr then .ok else s.lastErr) ∧
    (s.pinsNow.rst = false → s.accepts = false → t.lastErr = s.lastErr)

/-- O52: the frame of the commands. Each command writes only the registers its rule names (R110, R111, R112, R146, R147,
R170, R180, R181): NOP none; KEYB and IVB their own buffer and count; STEPB, KSB and XORB the cells; and every one of
them RSP, RSP_V and LAST_ERR. No command writes MARKER_CELLS or the input list. -/
def Obligations.CommandsWriteOnlyTheirRegisters : Prop :=
  ∀ (i : Instr) (s t : State), exec i s = .next t →
    t.markers = s.markers ∧ t.pins = s.pins ∧
    (i = .nop → t = { s with rsp := t.rsp, rspV := t.rspV }) ∧
    ((∃ d, i = .keyb d) → t = { s with kbuf := t.kbuf, kcnt := t.kcnt, rsp := t.rsp, rspV := t.rspV }) ∧
    ((∃ d, i = .ivb d) → t = { s with ibuf := t.ibuf, icnt := t.icnt, rsp := t.rsp, rspV := t.rspV }) ∧
    (takesKeystream i = true → t = { s with cells := t.cells, rsp := t.rsp, rspV := t.rspV, lastErr := t.lastErr }) ∧
    (takesKeystream i = true → s.phase = .ready → t.lastErr = s.lastErr) ∧
    (i = .init → rspCode t.rsp ≠ 0#3 → t.cells = s.cells ∧ t.phase = s.phase ∧ t.wcnt = s.wcnt) ∧
    (i = .init → rspCode t.rsp = 0#3 → t.lastErr = s.lastErr)

/-! ## The assembler notation -/

/-- O53, R96: each command assembles to `(OP << 12) | D`, with D = 0 where the command takes none. The operand is decimal,
hexadecimal as the rule writes it (two digits, capitals), or the literal of a visible ASCII character; a comment may
follow the command; no mnemonic gives a reserved word, only `.word` does; and the rule's examples. (Literals of the
blank, the semicolon, the apostrophe and of other codes are left to O58.) -/
def Obligations.AssemblerNotation : Prop :=
  (∀ i : Instr, encode i = (matchOf i >>> 12) <<< 12 ||| (operandOf i).setWidth 16) ∧
  assembleLine ['N', 'O', 'P'] = some (some 0x0000#16) ∧ assembleLine ['C', 'L', 'R'] = some (some 0x1000#16) ∧
  assembleLine ['I', 'N', 'I', 'T'] = some (some 0x4000#16) ∧
  assembleLine ['S', 'T', 'E', 'P', 'B'] = some (some 0x5000#16) ∧
  assembleLine ['K', 'S', 'B'] = some (some 0x6000#16) ∧
  (∀ n : Fin 256, ∀ m ∈ dataMnemonics,
    assembleLine (m.1 ++ [' '] ++ Nat.toDigits 10 n) = some (some (encode (m.2 (BitVec.ofNat 8 n)))) ∧
    assembleLine (m.1 ++ [' ', '0', 'x'] ++ twoHexDigits n) = some (some (encode (m.2 (BitVec.ofNat 8 n)))) ∧
    (33 ≤ n.val → n.val ≤ 126 → n.val ≠ 39 → n.val ≠ 59 →
      assembleLine (m.1 ++ [' ', quoteChar, Char.ofNat n, quoteChar]) = some (some (encode (m.2 (BitVec.ofNat 8 n)))))) ∧
  (∀ cs : List Char,
    (∀ m ∈ plainMnemonics, assembleLine (m.1 ++ [' ', ';'] ++ cs) = some (some (encode m.2))) ∧
    (∀ m ∈ dataMnemonics, assembleLine (m.1 ++ [' ', '5', '8', ' ', ';'] ++ cs) = some (some (encode (m.2 0x3A#8))))) ∧
  (∀ (line : List Char) (w : CmdWord), assembleLine line = some (some w) → validWord w = false →
    (takeWord (skipBlanks line)).1 = ['.', 'w', 'o', 'r', 'd']) ∧
  assembleLine ['K', 'E', 'Y', 'B', ' ', '0', 'x', '0', '1'] = some (some 0x2001#16) ∧
  assembleLine ['I', 'V', 'B', ' ', '0', 'x', '0', '0'] = some (some 0x3000#16) ∧
  assembleLine ['X', 'O', 'R', 'B', ' ', quoteChar, 'H', quoteChar] = some (some 0x7048#16) ∧
  assembleLine ['.', 'w', 'o', 'r', 'd', ' ', '0', 'x', '8', '0', '0', '0'] = some (some 0x8000#16)

/-- O54, R97: the expansions of the pseudo-instructions, and that ENGINE, from empty buffers, answers OK 161 times and
constructs the engine of its key and IV. -/
def Obligations.PseudoInstructionsExpand : Prop :=
  (∀ k : Vector Byte 80, (expandPseudo (.ldkey k)).length = 80 ∧
    ∀ j : Fin 80, (expandPseudo (.ldkey k))[j.val]? = some (.keyb k[j])) ∧
  (∀ v : Vector Byte 80, (expandPseudo (.ldiv v)).length = 80 ∧
    ∀ j : Fin 80, (expandPseudo (.ldiv v))[j.val]? = some (.ivb v[j])) ∧
  (∀ k v : Vector Byte 80,
    expandPseudo (.engine k v) = expandPseudo (.ldkey k) ++ expandPseudo (.ldiv v) ++ [.init]) ∧
  (∀ ds : List Byte, (expandPseudo (.enc ds)).length = ds.length ∧
    (∀ j : Nat, (expandPseudo (.enc ds))[j]? = ds[j]?.map Instr.xorb) ∧ expandPseudo (.dec ds) = expandPseudo (.enc ds)) ∧
  (∀ n, expandPseudo (.ks n) = List.replicate n .ksb) ∧
  expandPseudo .zerokey = expandPseudo (.ldkey zeros) ∧ expandPseudo .zeroiv = expandPseudo (.ldiv zeros) ∧
  (∀ (k v : Vector Byte 80) (s : State), s.kcnt = 0#7 → s.icnt = 0#7 → ∃ t : State,
    execAll (expandPseudo (.engine k v)) s = some t ∧ t.phase = .warmup ∧ t.wcnt = 0#11 ∧
    t.cells = loadCells k v s.markers ∧ responsesOf (expandPseudo (.engine k v)) s = engineResponses)

/-! ## The source's testable properties -/

/-- O55, R134: with no warm-up the same key and IV give another keystream: the first two bytes in both profiles
(spec/95_test_vectors.md WU-3 against KS-1 and KS-2). -/
def Obligations.SkippedWarmupGivesAnotherKeystream : Prop :=
  [0, 8].map (keystreamByteAt (loadCells zeros zeros Config.markersDoc)) = [0x01#8, 0x00#8] ∧
  [0, 8].map (keystreamByteAt (stepN 1152 (loadCells zeros zeros Config.markersDoc))) = [0x00#8, 0x12#8] ∧
  [0, 8].map (keystreamByteAt (loadCells zeros zeros Config.markersPublished)) = [0x07#8, 0x00#8] ∧
  [0, 8].map (keystreamByteAt (stepN 1152 (loadCells zeros zeros Config.markersPublished))) = [0xFB#8, 0xE0#8]

/-- O56, R172: the bytes C that an engine answered, passed through XORB on the same engine, meet the keystream further
on. The engine does not detect it, and the answer is not P in general. -/
def Obligations.ReusedEngineGoesOnWithItsKeystream : Prop :=
  (∀ (S : Cells) (n : Nat) (P C : List Byte) (s : State), s.phase = .ready → s.cells = stepN n S →
    C.length = P.length → (∀ i < P.length, C[i]? = P[i]?.map fun p => p ^^^ keystreamByteAt S (n + 8 * i)) →
    ∃ t u : State, execAll (P.map .xorb) s = some t ∧ execAll (C.map .xorb) t = some u ∧ u.lastErr = s.lastErr ∧
      responsesOf (P.map .xorb) s = C.map (fun c => 0x70#8 ++ c) ∧
      ∀ i < P.length, (responsesOf (C.map .xorb) t)[i]? = P[i]?.map fun p =>
        0x70#8 ++ (p ^^^ keystreamByteAt S (n + 8 * i) ^^^ keystreamByteAt S (n + 8 * (P.length + i)))) ∧
  (∃ (s t u : State) (p : Byte), s.phase = .ready ∧ exec (.xorb p) s = .next t ∧
    exec (.xorb (rspData t.rsp)) t = .next u ∧ rspCode u.rsp = 0#3 ∧ rspData u.rsp ≠ p)

/-! ## Choices of the model -/

/-- O57 (the model's own, log entries 1 and 2): every edge uses up the first entry of the input list, whatever it does, and
leaves the rest as it was; where nothing is listed, the edge is that of an idle host. -/
def Obligations.EachEdgeUsesOneInput : Prop :=
  (∀ s t : State, step s = .next t → t.pins = s.pins.tail) ∧
  (∀ s : State, s.pins = [] → step s = step { s with pins := [Pins.idle] })

/-- O58 (the model's own, log entry 16): what R96 leaves open in the assembler notation. A character literal stands for
its character's number at every code below 256, also around a blank, a semicolon and an apostrophe; hexadecimal digits
may be small letters and need no leading zero; a comment needs no blank before it; blanks before a line are skipped; a
line that is empty or a comment holds no command; a number too large for its operand is refused. -/
def Obligations.AssemblerNotationChoices : Prop :=
  (∀ n : Fin 256, ∀ m ∈ dataMnemonics,
    assembleLine (m.1 ++ [' ', '0', 'x'] ++ Nat.toDigits 16 n) = some (some (encode (m.2 (BitVec.ofNat 8 n)))) ∧
    assembleLine (m.1 ++ [' ', quoteChar, Char.ofNat n, quoteChar]) = some (some (encode (m.2 (BitVec.ofNat 8 n))))) ∧
  (∀ cs : List Char, assembleLine (';' :: cs) = some none ∧
    ∀ m ∈ plainMnemonics, assembleLine (m.1 ++ [';'] ++ cs) = some (some (encode m.2))) ∧
  (∀ (b : Char) (line : List Char), isBlank b = true → assembleLine (b :: line) = assembleLine line) ∧
  assembleLine [] = some none ∧
  (∀ m ∈ dataMnemonics, assembleLine (m.1 ++ [' ', '2', '5', '6']) = none) ∧
  assembleLine ['.', 'w', 'o', 'r', 'd', ' ', '6', '5', '5', '3', '6'] = none
end

