-- ==== Sys2Proof/Laws/Buffers.lean ====
section
/-! SUPPORT. What staging one byte does to a buffer and its count, and that it keeps the buffer clean above the count. -/

namespace Sys2Proof.Machine

/-- Below 80 the byte is stored at the count and the count rises by one. -/
theorem stageByte_lt {buf : Vector Byte 80} {cnt : ByteCount} (d : Byte) (h : cnt.toNat < 80) :
    stageByte buf cnt d = (buf.set cnt.toNat d h, cnt + 1#7) := by
  simp only [stageByte, Config.keyLen, h, if_true, Prod.mk.injEq, and_true]
  apply Vector.ext
  intro j hj
  simp [Vector.getElem_setIfInBounds, Vector.getElem_set]

/-- From 80 on the byte is discarded and the count is 81. -/
theorem stageByte_ge {buf : Vector Byte 80} {cnt : ByteCount} (d : Byte) (h : 80 ≤ cnt.toNat) :
    stageByte buf cnt d = (buf, 81#7) := by
  simp [stageByte, Config.keyLen, Nat.not_lt.mpr h]

/-- The new count as a number. -/
theorem stageByte_count (buf : Vector Byte 80) (cnt : ByteCount) (d : Byte) :
    (stageByte buf cnt d).2.toNat = if cnt.toNat < 80 then cnt.toNat + 1 else 81 := by
  by_cases h : cnt.toNat < 80
  · rw [stageByte_lt d h, if_pos h]
    simp only [BitVec.toNat_add, BitVec.toNat_ofNat]
    omega
  · rw [stageByte_ge d (by omega), if_neg h]
    rfl

/-- Each entry after staging. -/
theorem stageByte_entry (buf : Vector Byte 80) (cnt : ByteCount) (d : Byte) (j : Fin 80) :
    (stageByte buf cnt d).1[j] = if cnt.toNat = j.val then d else buf[j] := by
  by_cases h : cnt.toNat < 80
  · rw [stageByte_lt d h]
    simp only [Fin.getElem_fin, Vector.getElem_set]
  · rw [stageByte_ge d (by omega), if_neg (by omega)]

/-- Staging keeps the range of the count (R32, R33). -/
theorem stageByte_range (buf : Vector Byte 80) (cnt : ByteCount) (d : Byte) : (stageByte buf cnt d).2.toNat ≤ 81 := by
  rw [stageByte_count]
  split_ifs <;> omega

/-- Staging keeps the entries above the count 0 (R32, R33). -/
theorem stageByte_clean {buf : Vector Byte 80} {cnt : ByteCount} (d : Byte) (h : BufferClean buf cnt) :
    BufferClean (stageByte buf cnt d).1 (stageByte buf cnt d).2 := by
  intro j hj
  rw [stageByte_count] at hj
  have := j.isLt
  rw [stageByte_entry]
  by_cases hc : cnt.toNat < 80
  · rw [if_pos hc] at hj
    rw [if_neg (by omega)]
    exact h j (by omega)
  · rw [if_neg hc] at hj
    omega

/-- A cleared buffer is clean. -/
theorem bufferClean_replicate (cnt : ByteCount) : BufferClean (Vector.replicate 80 0x00#8) cnt := by
  intro j _
  simp

end Sys2Proof.Machine
end

