-- ==== Sys2Proof/Laws/Cells.lean ====
section
/-! SUPPORT. What the operations over the 288 cells do, cell by cell: one lemma per operation, which later proofs cite
instead of unfolding it. -/

namespace Sys2Proof.Machine

/-! ### Reading and writing one cell -/

/-- Two cipher states with the same 288 cells are equal. -/
theorem cells_ext {S T : Cells} (h : ∀ i < 288, cell S i = cell T i) : S = T :=
  BitVec.eq_of_getLsbD_eq h

theorem cell_of_ge {S : Cells} {i : Nat} (h : 288 ≤ i) : cell S i = false :=
  BitVec.getLsbD_of_ge S i h

@[simp] theorem cell_zero (i : Nat) : cell 0#288 i = false := by simp [cell]

/-- A write reaches its own cell and no other. -/
theorem cell_setCell (S : Cells) (i j : Nat) (b : Bool) (hi : i < 288) :
    cell (setCell S i b) j = if j = i then b else cell S j := by
  unfold cell setCell
  cases b <;> by_cases hj : j = i <;> by_cases hb : j < 288 <;> simp_all

/-- Index 288 and above names no cell. -/
theorem setCell_of_ge (S : Cells) (i : Nat) (b : Bool) (hi : 288 ≤ i) : setCell S i b = S := by
  apply cells_ext
  intro j hj
  unfold cell setCell
  cases b <;> simp [hj] <;> omega

/-- The one-cell shift toward higher indices. -/
theorem cell_shift (S : Cells) (i : Nat) (hi : i < 288) :
    cell (S <<< 1) i = if i = 0 then false else cell S (i - 1) := by
  unfold cell
  rcases i with _ | i
  · simp
  · simp [hi, BitVec.getLsbD_eq_getElem (show i < 288 by omega)]

/-! ### The step function -/

/-- The next state, cell by cell: the three heads take the feedback bits, every other cell its lower neighbour. -/
theorem cell_stepCells (S : Cells) (i : Nat) (hi : i < 288) :
    cell (stepCells S).1 i =
      if i = 0 then (cell S 242 ^^ cell S 287) ^^ (cell S 285 && cell S 286) ^^ cell S 68
      else if i = 93 then (cell S 65 ^^ cell S 92) ^^ (cell S 90 && cell S 91) ^^ cell S 170
      else if i = 177 then (cell S 161 ^^ cell S 176) ^^ (cell S 174 && cell S 175) ^^ cell S 263
      else cell S (i - 1) := by
  simp only [stepCells]
  rw [cell_setCell _ _ _ _ (by omega), cell_setCell _ _ _ _ (by omega), cell_setCell _ _ _ _ (by omega),
    cell_shift _ _ hi]
  by_cases h0 : i = 0
  · simp only [h0, if_true, show (0 : Nat) ≠ 93 by decide, show (0 : Nat) ≠ 177 by decide, if_false]
  · by_cases h1 : i = 93
    · simp only [h1, if_true, show (93 : Nat) ≠ 0 by decide, show (93 : Nat) ≠ 177 by decide, if_false]
    · simp only [h0, h1, if_false]

/-- The output bit is the sum of the six output taps. -/
theorem stepCells_out (S : Cells) :
    (stepCells S).2 =
      ((cell S 65 ^^ cell S 92) ^^ (cell S 161 ^^ cell S 176) ^^ (cell S 242 ^^ cell S 287)) := rfl

/-- The cell that the shift carries from a cell that is no segment's tail. -/
theorem cell_of_next (S : Cells) (i : Nat) (hi : i < 287) (ha : i ≠ 92) (hb : i ≠ 176) :
    cell S i = cell (stepCells S).1 (i + 1) := by
  rw [cell_stepCells _ _ (by omega), if_neg (by omega), if_neg (by omega), if_neg (by omega), Nat.add_sub_cancel]

/-- The tail of segment A, recovered from the next state. -/
theorem tailA_of_next (S : Cells) :
    cell S 92 = (cell (stepCells S).1 93 ^^ cell S 65 ^^ (cell S 90 && cell S 91) ^^ cell S 170) := by
  rw [cell_stepCells S 93 (by omega)]
  simp only [show (93 : Nat) ≠ 0 by decide, if_false, if_true]
  cases cell S 65 <;> cases cell S 92 <;> cases (cell S 90 && cell S 91) <;> cases cell S 170 <;> rfl

/-- The tail of segment B, recovered from the next state. -/
theorem tailB_of_next (S : Cells) :
    cell S 176 = (cell (stepCells S).1 177 ^^ cell S 161 ^^ (cell S 174 && cell S 175) ^^ cell S 263) := by
  rw [cell_stepCells S 177 (by omega)]
  simp only [show (177 : Nat) ≠ 0 by decide, show (177 : Nat) ≠ 93 by decide, if_false, if_true]
  cases cell S 161 <;> cases cell S 176 <;> cases (cell S 174 && cell S 175) <;> cases cell S 263 <;> rfl

/-- The tail of segment C, recovered from the next state. -/
theorem tailC_of_next (S : Cells) :
    cell S 287 = (cell (stepCells S).1 0 ^^ cell S 242 ^^ (cell S 285 && cell S 286) ^^ cell S 68) := by
  rw [cell_stepCells S 0 (by omega)]
  simp only [if_true]
  cases cell S 242 <;> cases cell S 287 <;> cases (cell S 285 && cell S 286) <;> cases cell S 68 <;> rfl

/-- Only the all-zero state steps to the all-zero state. -/
theorem eq_zero_of_stepCells {S : Cells} (h : (stepCells S).1 = 0#288) : S = 0#288 := by
  have low : ∀ i < 287, i ≠ 92 → i ≠ 176 → cell S i = false := fun i hi ha hb => by
    rw [cell_of_next S i hi ha hb, h, cell_zero]
  apply cells_ext
  intro i hi
  rw [cell_zero]
  by_cases ha : i = 92
  · rw [ha, tailA_of_next, h, low 65, low 90, low 91, low 170] <;> simp
  by_cases hb : i = 176
  · rw [hb, tailB_of_next, h, low 161, low 174, low 175, low 263] <;> simp
  by_cases hc : i = 287
  · rw [hc, tailC_of_next, h, low 242, low 285, low 286, low 68] <;> simp
  · exact low i (by omega) ha hb

theorem stepN_ne_zero {S : Cells} (h : S ≠ 0#288) : ∀ n, stepN n S ≠ 0#288 := by
  intro n
  induction n generalizing S with
  | zero => exact h
  | succ n ih => exact ih fun h0 => h (eq_zero_of_stepCells h0)

/-! ### Several steps and the keystream byte -/

@[simp] theorem stepN_zero (S : Cells) : stepN 0 S = S := rfl

theorem stepN_add (m n : Nat) (S : Cells) : stepN (m + n) S = stepN n (stepN m S) := by
  induction m generalizing S with
  | zero => simp
  | succ m ih => rw [Nat.succ_add]; exact ih _

theorem stepN_succ (n : Nat) (S : Cells) : stepN (n + 1) S = (stepCells (stepN n S)).1 := stepN_add n 1 S

theorem keystreamBit_add (m n : Nat) (S : Cells) : keystreamBit (stepN m S) n = keystreamBit S (m + n) := by
  rw [keystreamBit, keystreamBit, stepN_add]

/-- A keystream byte takes eight steps. -/
theorem keystreamByte_cells (S : Cells) : (keystreamByte S).1 = stepN 8 S := rfl

/-- Bit `k` of a keystream byte is the output bit of the command's step `k`: least significant bit first. -/
theorem keystreamByte_bit (S : Cells) (k : Nat) (hk : k < 8) :
    (keystreamByte S).2.getLsbD k = keystreamBit S k := by
  have hz : ∀ (z : Bool) (i j : Nat), (zext8 z <<< i).getLsbD j = (decide (j < 8) && decide (j = i) && z) := by
    intro z i j
    by_cases hj : j < 8 <;> by_cases he : j = i <;> cases z <;> (simp_all [zext8]; try omega)
  simp only [keystreamByte, List.range, List.range.loop, List.foldl, packBit, BitVec.getLsbD_or, hz]
  interval_cases k <;> simp <;> rfl

/-! ### Loading the cells -/

/-- The cells after loading bytes from cell `off` on. -/
theorem cell_loadBits (ds : List Byte) (off : Nat) (S : Cells) (i : Nat) (h : off + ds.length ≤ 288) :
    cell (loadBits off ds S) i =
      if h : off ≤ i ∧ i - off < ds.length then elementBit (ds[i - off]'h.2) else cell S i := by
  induction ds generalizing off S with
  | nil => simp [loadBits]
  | cons d ds ih =>
    simp only [List.length_cons] at h
    rw [loadBits, ih _ _ (by omega), cell_setCell _ _ _ _ (by omega)]
    by_cases h0 : i = off
    · subst h0
      simp
    · by_cases h1 : off ≤ i
      · have e : i - off = (i - (off + 1)) + 1 := by omega
        simp only [h0, if_false, List.length_cons, e]
        have : (off + 1 ≤ i ∧ i - (off + 1) < ds.length) ↔ (off ≤ i ∧ i - (off + 1) + 1 < ds.length + 1) := by omega
        simp only [this, List.getElem_cons_succ]
      · simp [h0, h1, show ¬ off + 1 ≤ i by omega]

/-- The cells after the marker is set. -/
theorem cell_setMarkers (m : Config.MarkerCells) (S : Cells) (i : Nat) (hi : i < 288) :
    cell (setMarkers m S) i = (decide (i ∈ m) || cell S i) := by
  induction m generalizing S with
  | nil => simp [setMarkers]
  | cons a m ih =>
    rw [setMarkers, ih]
    by_cases ha : a < 288
    · rw [cell_setCell _ _ _ _ ha]
      by_cases h : i = a <;> simp [h]
    · rw [setCell_of_ge _ _ _ (by omega)]
      simp [show i ≠ a by omega]

/-- The loaded state, cell by cell (R112's table, before the marker is known to lie in the top segment). -/
theorem cell_loadCells (k v : Vector Byte 80) (m : Config.MarkerCells) (i : Nat) (hi : i < 288) :
    cell (loadCells k v m) i =
      (decide (i ∈ m) ||
        if h : i < 80 then elementBit k[i]
        else if h : 93 ≤ i ∧ i < 173 then elementBit v[i - 93]
        else false) := by
  rw [loadCells, cell_setMarkers _ _ _ hi, cell_loadBits _ _ _ _ (by simp [Config.ivOffset]),
    cell_loadBits _ _ _ _ (by simp [Config.keyOffset])]
  congr 1
  by_cases h1 : i < 80
  · have h2 : ¬ 93 ≤ i := by omega
    simp [h1, h2]
  · by_cases h2 : 93 ≤ i ∧ i < 173
    · have h3 : i - 93 < 80 := by omega
      simp [h1, h2, h3]
    · have h3 : ¬ (93 ≤ i ∧ i - 93 < 80) := by omega
      simp [h1, h2, h3]

theorem Marker.range {m : Config.MarkerCells} (h : m.wf = true) {i : Nat} (hi : i ∈ m) : 177 ≤ i ∧ i < 288 := by
  simp only [Config.MarkerCells.wf, Config.MarkerCells.inTopSegment, Bool.and_eq_true, List.all_eq_true,
    decide_eq_true_eq] at h
  exact h.1.2 i hi

/-- With a well-formed marker the loaded state is not all zero (R112, corner case 3). -/
theorem loadCells_ne_zero (k v : Vector Byte 80) {m : Config.MarkerCells} (h : m.wf = true) :
    loadCells k v m ≠ 0#288 := by
  obtain ⟨i, hi⟩ : ∃ i, i ∈ m := by
    cases m with
    | nil => simp [Config.MarkerCells.wf, Config.MarkerCells.nonempty] at h
    | cons a m => exact ⟨a, by simp⟩
  intro h0
  have := cell_loadCells k v m i (Marker.range h hi).2
  simp [h0, hi] at this

/-- The loaded state depends on bit 0 of each key and IV element and on the marker, and on nothing else. -/
theorem loadCells_congr {k k' v v' : Vector Byte 80} (m : Config.MarkerCells)
    (hk : ∀ j : Fin 80, elementBit k[j] = elementBit k'[j])
    (hv : ∀ j : Fin 80, elementBit v[j] = elementBit v'[j]) : loadCells k v m = loadCells k' v' m := by
  apply cells_ext
  intro i hi
  rw [cell_loadCells _ _ _ _ hi, cell_loadCells _ _ _ _ hi]
  congr 1
  split_ifs with h1 h2
  · exact hk ⟨i, h1⟩
  · exact hv ⟨i - 93, by omega⟩
  · rfl

end Sys2Proof.Machine
end

