-- ==== Sys2Proof/Laws/State.lean ====
section
/-! SUPPORT. One lemma per field per named update of the state, each true by rfl, so that no later proof unfolds a record
update. -/

namespace Sys2Proof.Machine

variable (s : State) (cmd : CmdWord) (code : RespCode) (data : Byte)

/-! ### Clearing the buffers -/

@[simp] theorem clearBuffers_cells : (s.clearBuffers).cells = s.cells := rfl
@[simp] theorem clearBuffers_kbuf : (s.clearBuffers).kbuf = Vector.replicate 80 0x00#8 := rfl
@[simp] theorem clearBuffers_kcnt : (s.clearBuffers).kcnt = 0#7 := rfl
@[simp] theorem clearBuffers_ibuf : (s.clearBuffers).ibuf = Vector.replicate 80 0x00#8 := rfl
@[simp] theorem clearBuffers_icnt : (s.clearBuffers).icnt = 0#7 := rfl
@[simp] theorem clearBuffers_phase : (s.clearBuffers).phase = s.phase := rfl
@[simp] theorem clearBuffers_wcnt : (s.clearBuffers).wcnt = s.wcnt := rfl
@[simp] theorem clearBuffers_lastErr : (s.clearBuffers).lastErr = s.lastErr := rfl
@[simp] theorem clearBuffers_rsp : (s.clearBuffers).rsp = s.rsp := rfl
@[simp] theorem clearBuffers_rspV : (s.clearBuffers).rspV = s.rspV := rfl
@[simp] theorem clearBuffers_markers : (s.clearBuffers).markers = s.markers := rfl
@[simp] theorem clearBuffers_pins : (s.clearBuffers).pins = s.pins := rfl

/-! ### Completing a command -/

@[simp] theorem respond_cells : (respond cmd code data s).cells = s.cells := rfl
@[simp] theorem respond_kbuf : (respond cmd code data s).kbuf = s.kbuf := rfl
@[simp] theorem respond_kcnt : (respond cmd code data s).kcnt = s.kcnt := rfl
@[simp] theorem respond_ibuf : (respond cmd code data s).ibuf = s.ibuf := rfl
@[simp] theorem respond_icnt : (respond cmd code data s).icnt = s.icnt := rfl
@[simp] theorem respond_phase : (respond cmd code data s).phase = s.phase := rfl
@[simp] theorem respond_wcnt : (respond cmd code data s).wcnt = s.wcnt := rfl
@[simp] theorem respond_lastErr : (respond cmd code data s).lastErr = lastErrAfter code s.lastErr := rfl
@[simp] theorem respond_rsp : (respond cmd code data s).rsp = rspWord cmd code data := rfl
@[simp] theorem respond_rspV : (respond cmd code data s).rspV = true := rfl
@[simp] theorem respond_markers : (respond cmd code data s).markers = s.markers := rfl
@[simp] theorem respond_pins : (respond cmd code data s).pins = s.pins := rfl

/-! ### Failing a command -/

@[simp] theorem fail_cells : (fail cmd code s).cells = s.cells := rfl
@[simp] theorem fail_kbuf : (fail cmd code s).kbuf = s.kbuf := rfl
@[simp] theorem fail_kcnt : (fail cmd code s).kcnt = s.kcnt := rfl
@[simp] theorem fail_ibuf : (fail cmd code s).ibuf = s.ibuf := rfl
@[simp] theorem fail_icnt : (fail cmd code s).icnt = s.icnt := rfl
@[simp] theorem fail_phase : (fail cmd code s).phase = s.phase := rfl
@[simp] theorem fail_wcnt : (fail cmd code s).wcnt = s.wcnt := rfl
@[simp] theorem fail_lastErr : (fail cmd code s).lastErr = lastErrAfter code s.lastErr := rfl
@[simp] theorem fail_rsp : (fail cmd code s).rsp = rspWord cmd code 0x00#8 := rfl
@[simp] theorem fail_rspV : (fail cmd code s).rspV = true := rfl
@[simp] theorem fail_markers : (fail cmd code s).markers = s.markers := rfl
@[simp] theorem fail_pins : (fail cmd code s).pins = s.pins := rfl

/-! ### An invalid word -/

@[simp] theorem badCmd_cells : (badCmd cmd s).cells = s.cells := rfl
@[simp] theorem badCmd_kbuf : (badCmd cmd s).kbuf = s.kbuf := rfl
@[simp] theorem badCmd_kcnt : (badCmd cmd s).kcnt = s.kcnt := rfl
@[simp] theorem badCmd_ibuf : (badCmd cmd s).ibuf = s.ibuf := rfl
@[simp] theorem badCmd_icnt : (badCmd cmd s).icnt = s.icnt := rfl
@[simp] theorem badCmd_phase : (badCmd cmd s).phase = s.phase := rfl
@[simp] theorem badCmd_wcnt : (badCmd cmd s).wcnt = s.wcnt := rfl
@[simp] theorem badCmd_lastErr : (badCmd cmd s).lastErr = .badCmd := rfl
@[simp] theorem badCmd_rsp : (badCmd cmd s).rsp = rspWord cmd .badCmd 0x00#8 := rfl
@[simp] theorem badCmd_rspV : (badCmd cmd s).rspV = true := rfl
@[simp] theorem badCmd_markers : (badCmd cmd s).markers = s.markers := rfl
@[simp] theorem badCmd_pins : (badCmd cmd s).pins = s.pins := rfl

/-! ### The reset edge -/

@[simp] theorem resetEdge_cells : (resetEdge s).cells = 0#288 := rfl
@[simp] theorem resetEdge_kbuf : (resetEdge s).kbuf = Vector.replicate 80 0x00#8 := rfl
@[simp] theorem resetEdge_kcnt : (resetEdge s).kcnt = 0#7 := rfl
@[simp] theorem resetEdge_ibuf : (resetEdge s).ibuf = Vector.replicate 80 0x00#8 := rfl
@[simp] theorem resetEdge_icnt : (resetEdge s).icnt = 0#7 := rfl
@[simp] theorem resetEdge_phase : (resetEdge s).phase = .empty := rfl
@[simp] theorem resetEdge_wcnt : (resetEdge s).wcnt = 0#11 := rfl
@[simp] theorem resetEdge_lastErr : (resetEdge s).lastErr = .ok := rfl
@[simp] theorem resetEdge_rsp : (resetEdge s).rsp = 0x0000#16 := rfl
@[simp] theorem resetEdge_rspV : (resetEdge s).rspV = false := rfl
@[simp] theorem resetEdge_markers : (resetEdge s).markers = s.markers := rfl
@[simp] theorem resetEdge_pins : (resetEdge s).pins = s.pins := rfl

/-! ### The idle edge -/

@[simp] theorem idleEdge_cells : (idleEdge s).cells = s.cells := rfl
@[simp] theorem idleEdge_kbuf : (idleEdge s).kbuf = s.kbuf := rfl
@[simp] theorem idleEdge_kcnt : (idleEdge s).kcnt = s.kcnt := rfl
@[simp] theorem idleEdge_ibuf : (idleEdge s).ibuf = s.ibuf := rfl
@[simp] theorem idleEdge_icnt : (idleEdge s).icnt = s.icnt := rfl
@[simp] theorem idleEdge_phase : (idleEdge s).phase = s.phase := rfl
@[simp] theorem idleEdge_wcnt : (idleEdge s).wcnt = s.wcnt := rfl
@[simp] theorem idleEdge_lastErr : (idleEdge s).lastErr = s.lastErr := rfl
@[simp] theorem idleEdge_rsp : (idleEdge s).rsp = s.rsp := rfl
@[simp] theorem idleEdge_rspV : (idleEdge s).rspV = false := rfl
@[simp] theorem idleEdge_markers : (idleEdge s).markers = s.markers := rfl
@[simp] theorem idleEdge_pins : (idleEdge s).pins = s.pins := rfl

/-! ### The warm-up tick -/

@[simp] theorem tick_cells : (tick s).cells = (stepCells s.cells).1 := rfl
@[simp] theorem tick_kbuf : (tick s).kbuf = s.kbuf := rfl
@[simp] theorem tick_kcnt : (tick s).kcnt = s.kcnt := rfl
@[simp] theorem tick_ibuf : (tick s).ibuf = s.ibuf := rfl
@[simp] theorem tick_icnt : (tick s).icnt = s.icnt := rfl
/-- The tick that makes WCNT equal 1152 is the one from 1151 (R130). -/
theorem wcnt_succ_eq_warmupSteps (w : WarmCount) : w + 1#11 = BitVec.ofNat 11 Config.warmupSteps ↔ w = 1151#11 :=
  ⟨fun h => add_right_cancel (b := 1#11) h, fun h => h ▸ rfl⟩

@[simp] theorem tick_phase : (tick s).phase = if s.wcnt = 1151#11 then .ready else s.phase :=
  if_congr (wcnt_succ_eq_warmupSteps s.wcnt) rfl rfl
@[simp] theorem tick_wcnt : (tick s).wcnt = s.wcnt + 1#11 := rfl
@[simp] theorem tick_lastErr : (tick s).lastErr = s.lastErr := rfl
@[simp] theorem tick_rsp : (tick s).rsp = s.rsp := rfl
@[simp] theorem tick_rspV : (tick s).rspV = false := rfl
@[simp] theorem tick_markers : (tick s).markers = s.markers := rfl
@[simp] theorem tick_pins : (tick s).pins = s.pins := rfl

/-! ### Using up the input of an edge -/

@[simp] theorem popPins_cells : (s.popPins).cells = s.cells := rfl
@[simp] theorem popPins_kbuf : (s.popPins).kbuf = s.kbuf := rfl
@[simp] theorem popPins_kcnt : (s.popPins).kcnt = s.kcnt := rfl
@[simp] theorem popPins_ibuf : (s.popPins).ibuf = s.ibuf := rfl
@[simp] theorem popPins_icnt : (s.popPins).icnt = s.icnt := rfl
@[simp] theorem popPins_phase : (s.popPins).phase = s.phase := rfl
@[simp] theorem popPins_wcnt : (s.popPins).wcnt = s.wcnt := rfl
@[simp] theorem popPins_lastErr : (s.popPins).lastErr = s.lastErr := rfl
@[simp] theorem popPins_rsp : (s.popPins).rsp = s.rsp := rfl
@[simp] theorem popPins_rspV : (s.popPins).rspV = s.rspV := rfl
@[simp] theorem popPins_markers : (s.popPins).markers = s.markers := rfl
@[simp] theorem popPins_pins : (s.popPins).pins = s.pins.tail := rfl

/-! ### The input of the coming edge -/

@[simp] theorem pinsNow_cons (p : Pins) (ps : List Pins) : ({ s with pins := p :: ps } : State).pinsNow = p := rfl

@[simp] theorem pinsNow_nil : ({ s with pins := [] } : State).pinsNow = Pins.idle := rfl

/-! ### The response code a command writes into LAST_ERR -/

@[simp] theorem lastErrAfter_ok (old : RespCode) : lastErrAfter .ok old = old := rfl

theorem lastErrAfter_error {code : RespCode} (h : code ≠ .ok) (old : RespCode) : lastErrAfter code old = code := by
  simp [lastErrAfter, h]

end Sys2Proof.Machine
end

