-- ==== Sys2Proof/Laws/Exec.lean ====
section
/-! SUPPORT. What each command can do, said once: the state it answers, in every case of its rule. Later proofs cite these
and do not unfold the meanings. -/

namespace Sys2Proof.Machine

theorem exec_nop (s : State) : exec .nop s = .next (respond (encode .nop) .ok 0x00#8 s) := rfl

theorem exec_clr (s : State) :
    exec .clr s = .next (respond (encode .clr) .ok 0x00#8
      { s.clearBuffers with cells := 0#288, wcnt := 0#11, phase := .empty, lastErr := .ok }) := rfl

theorem exec_keyb (d : Byte) (s : State) :
    exec (.keyb d) s = .next (respond (encode (.keyb d)) .ok 0x00#8
      { s with kbuf := (stageByte s.kbuf s.kcnt d).1, kcnt := (stageByte s.kbuf s.kcnt d).2 }) := rfl

theorem exec_ivb (d : Byte) (s : State) :
    exec (.ivb d) s = .next (respond (encode (.ivb d)) .ok 0x00#8
      { s with ibuf := (stageByte s.ibuf s.icnt d).1, icnt := (stageByte s.ibuf s.icnt d).2 }) := rfl

theorem exec_init_key {s : State} (h : s.kcnt ≠ 80#7) :
    exec .init s = .next (fail (encode .init) .invalidKeyLength s.clearBuffers) := if_pos h

theorem exec_init_iv {s : State} (hk : s.kcnt = 80#7) (h : s.icnt ≠ 80#7) :
    exec .init s = .next (fail (encode .init) .invalidIvLength s.clearBuffers) :=
  (if_neg (not_not.mpr hk)).trans (if_pos h)

theorem exec_init_ok {s : State} (hk : s.kcnt = 80#7) (hi : s.icnt = 80#7) :
    exec .init s = .next (respond (encode .init) .ok 0x00#8
      { s.clearBuffers with cells := loadCells s.kbuf s.ibuf s.markers, wcnt := 0#11, phase := .warmup }) :=
  (if_neg (not_not.mpr hk)).trans (if_neg (not_not.mpr hi))

theorem exec_stepb_notReady {s : State} (h : s.phase ≠ .ready) :
    exec .stepb s = .next (fail (encode .stepb) .notReady s) := if_pos h

theorem exec_stepb_ready {s : State} (h : s.phase = .ready) :
    exec .stepb s = .next (respond (encode .stepb) .ok (zext8 (stepCells s.cells).2)
      { s with cells := (stepCells s.cells).1 }) := if_neg (not_not.mpr h)

theorem exec_ksb_notReady {s : State} (h : s.phase ≠ .ready) :
    exec .ksb s = .next (fail (encode .ksb) .notReady s) := if_pos h

theorem exec_ksb_ready {s : State} (h : s.phase = .ready) :
    exec .ksb s = .next (respond (encode .ksb) .ok (keystreamByte s.cells).2
      { s with cells := stepN 8 s.cells }) := if_neg (not_not.mpr h)

theorem exec_xorb_notReady {s : State} (d : Byte) (h : s.phase ≠ .ready) :
    exec (.xorb d) s = .next (fail (encode (.xorb d)) .notReady s) := if_pos h

theorem exec_xorb_ready {s : State} (d : Byte) (h : s.phase = .ready) :
    exec (.xorb d) s = .next (respond (encode (.xorb d)) .ok (d ^^^ (keystreamByte s.cells).2)
      { s with cells := stepN 8 s.cells }) := if_neg (not_not.mpr h)

/-- The three ways INIT ends (R112). -/
theorem exec_init_cases (s : State) :
    (s.kcnt ≠ 80#7 ∧ exec .init s = .next (fail (encode .init) .invalidKeyLength s.clearBuffers)) ∨
    (s.kcnt = 80#7 ∧ s.icnt ≠ 80#7 ∧ exec .init s = .next (fail (encode .init) .invalidIvLength s.clearBuffers)) ∨
    (s.kcnt = 80#7 ∧ s.icnt = 80#7 ∧ exec .init s = .next (respond (encode .init) .ok 0x00#8
      { s.clearBuffers with cells := loadCells s.kbuf s.ibuf s.markers, wcnt := 0#11, phase := .warmup })) := by
  by_cases hk : s.kcnt = 80#7
  · by_cases hi : s.icnt = 80#7
    · exact .inr (.inr ⟨hk, hi, exec_init_ok hk hi⟩)
    · exact .inr (.inl ⟨hk, hi, exec_init_iv hk hi⟩)
  · exact .inl ⟨hk, exec_init_key hk⟩

/-- Every command answers a next state in which it has responded: RSP carries its opcode, a code and a data byte, RSP_V
is 1, and the parameter and the input are untouched (R206). -/
theorem exec_next (i : Instr) (s : State) :
    ∃ (t : State) (code : RespCode) (data : Byte), exec i s = .next t ∧ t.rsp = rspWord (encode i) code data ∧
      t.rspV = true ∧ t.markers = s.markers ∧ t.pins = s.pins ∧ (code ≠ .ok → data = 0x00#8 ∧ t.lastErr = code) := by
  cases i with
  | nop => exact ⟨_, .ok, 0x00#8, rfl, rfl, rfl, rfl, rfl, by simp⟩
  | clr => exact ⟨_, .ok, 0x00#8, rfl, rfl, rfl, rfl, rfl, by simp⟩
  | keyb d => exact ⟨_, .ok, 0x00#8, rfl, rfl, rfl, rfl, rfl, by simp⟩
  | ivb d => exact ⟨_, .ok, 0x00#8, rfl, rfl, rfl, rfl, rfl, by simp⟩
  | init =>
    rcases exec_init_cases s with ⟨_, h⟩ | ⟨_, _, h⟩ | ⟨_, _, h⟩
    · exact ⟨_, .invalidKeyLength, 0x00#8, h, rfl, rfl, rfl, rfl, fun _ => ⟨rfl, rfl⟩⟩
    · exact ⟨_, .invalidIvLength, 0x00#8, h, rfl, rfl, rfl, rfl, fun _ => ⟨rfl, rfl⟩⟩
    · exact ⟨_, .ok, 0x00#8, h, rfl, rfl, rfl, rfl, by simp⟩
  | stepb =>
    by_cases hp : s.phase = .ready
    · exact ⟨_, .ok, _, exec_stepb_ready hp, rfl, rfl, rfl, rfl, by simp⟩
    · exact ⟨_, .notReady, 0x00#8, exec_stepb_notReady hp, rfl, rfl, rfl, rfl, fun _ => ⟨rfl, rfl⟩⟩
  | ksb =>
    by_cases hp : s.phase = .ready
    · exact ⟨_, .ok, _, exec_ksb_ready hp, rfl, rfl, rfl, rfl, by simp⟩
    · exact ⟨_, .notReady, 0x00#8, exec_ksb_notReady hp, rfl, rfl, rfl, rfl, fun _ => ⟨rfl, rfl⟩⟩
  | xorb d =>
    by_cases hp : s.phase = .ready
    · exact ⟨_, .ok, _, exec_xorb_ready d hp, rfl, rfl, rfl, rfl, by simp⟩
    · exact ⟨_, .notReady, 0x00#8, exec_xorb_notReady d hp, rfl, rfl, rfl, rfl, fun _ => ⟨rfl, rfl⟩⟩

/-! ### The fields of a response word -/

@[simp] theorem rspWord_code (w : CmdWord) (c : RespCode) (d : Byte) : rspCode (rspWord w c d) = c.bits := by
  apply BitVec.eq_of_getLsbD_eq
  intro k hk
  simp only [rspCode, rspWord, BitVec.getLsbD_extractLsb', BitVec.getLsbD_append]
  interval_cases k <;> simp

@[simp] theorem rspWord_data (w : CmdWord) (c : RespCode) (d : Byte) : rspData (rspWord w c d) = d := by
  apply BitVec.eq_of_getLsbD_eq
  intro k hk
  simp only [rspData, rspWord, BitVec.getLsbD_extractLsb', BitVec.getLsbD_append]
  interval_cases k <;> simp

@[simp] theorem rspWord_op (w : CmdWord) (c : RespCode) (d : Byte) : rspOp (rspWord w c d) = opField w := by
  apply BitVec.eq_of_getLsbD_eq
  intro k hk
  simp only [rspOp, rspWord, BitVec.getLsbD_extractLsb', BitVec.getLsbD_append]
  interval_cases k <;> simp

@[simp] theorem rspWord_zero_bit (w : CmdWord) (c : RespCode) (d : Byte) : (rspWord w c d)[11] = false := by
  rw [← BitVec.getLsbD_eq_getElem]
  simp only [rspWord, BitVec.getLsbD_append]
  simp

theorem RespCode.bits_range (c : RespCode) : c.bits.toNat ≤ 4 := by cases c <;> decide

@[simp] theorem RespCode.bits_eq_zero (c : RespCode) : c.bits = 0#3 ↔ c = .ok := by cases c <;> decide

theorem RespCode.bits_injective {c d : RespCode} (h : c.bits = d.bits) : c = d := by
  cases c <;> cases d <;> first | rfl | exact absurd h (by decide)

/-- What a command does depends on no later input, and carries it along. -/
theorem exec_withPins {i : Instr} {s t : State} (ps : List Pins) (h : exec i s = .next t) :
    exec i { s with pins := ps } = .next { t with pins := ps } := by
  cases i with
  | nop => cases h; rfl
  | clr => cases h; rfl
  | keyb d => cases h; rfl
  | ivb d => cases h; rfl
  | init =>
    rcases exec_init_cases s with ⟨hk, e⟩ | ⟨hk, hi, e⟩ | ⟨hk, hi, e⟩ <;> rw [e] at h <;> cases h
    · exact exec_init_key (s := { s with pins := ps }) hk
    · exact exec_init_iv (s := { s with pins := ps }) hk hi
    · exact exec_init_ok (s := { s with pins := ps }) hk hi
  | stepb =>
    by_cases hp : s.phase = .ready
    · rw [exec_stepb_ready hp] at h
      cases h
      exact exec_stepb_ready (s := { s with pins := ps }) hp
    · rw [exec_stepb_notReady hp] at h
      cases h
      exact exec_stepb_notReady (s := { s with pins := ps }) hp
  | ksb =>
    by_cases hp : s.phase = .ready
    · rw [exec_ksb_ready hp] at h
      cases h
      exact exec_ksb_ready (s := { s with pins := ps }) hp
    · rw [exec_ksb_notReady hp] at h
      cases h
      exact exec_ksb_notReady (s := { s with pins := ps }) hp
  | xorb d =>
    by_cases hp : s.phase = .ready
    · rw [exec_xorb_ready d hp] at h
      cases h
      exact exec_xorb_ready (s := { s with pins := ps }) d hp
    · rw [exec_xorb_notReady d hp] at h
      cases h
      exact exec_xorb_notReady (s := { s with pins := ps }) d hp

end Sys2Proof.Machine
end

