-- ==== Sys2Proof/Laws/PerInstr.lean ====
section
/-! SUPPORT. Statements made for every command, one lemma per constructor. The family EncodingRow: a command's word lies in
the command's own row of the opcode map (spec/30_encoding.md R93) and passes the validity check (R94). -/

namespace Sys2Proof.Laws.EncodingRow

/-- `(cmd & mask) == match` for the command's row, and `valid(cmd)`, of the command's word. -/
def Statement (i : Instr) : Prop := encode i &&& maskOf i = matchOf i ∧ validWord (encode i) = true

theorem nop : Statement .nop := ⟨by decide, by decide⟩

theorem clr : Statement .clr := ⟨by decide, by decide⟩

theorem keyb (d : Byte) : Statement (.keyb d) := by
  revert d
  unfold Statement
  decide +kernel

theorem ivb (d : Byte) : Statement (.ivb d) := by
  revert d
  unfold Statement
  decide +kernel

theorem init : Statement .init := ⟨by decide, by decide⟩

theorem stepb : Statement .stepb := ⟨by decide, by decide⟩

theorem ksb : Statement .ksb := ⟨by decide, by decide⟩

theorem xorb (d : Byte) : Statement (.xorb d) := by
  revert d
  unfold Statement
  decide +kernel

end Sys2Proof.Laws.EncodingRow
end

