-- ==== Sys2Proof/Laws/Step.lean ====
section
/-! SUPPORT. What one edge can do, said once: the equation of each case of R73, and the inversion lemma from which the
invariants follow. -/

namespace Sys2Proof.Machine

theorem accepts_iff (s : State) :
    s.accepts = true ↔ s.pinsNow.cmdValid = true ∧ s.pinsNow.rst = false ∧ s.phase ≠ .warmup := by
  simp [State.accepts, State.cmdReady]

theorem step_reset {s : State} (h : s.pinsNow.rst = true) : step s = .next (resetEdge s.popPins) := if_pos h

theorem step_tick {s : State} (hr : s.pinsNow.rst = false) (hp : s.phase = .warmup) :
    step s = .next (tick s.popPins) := by
  simp [step, edge, hr, hp]

theorem step_accept {s : State} (h : s.accepts = true) : step s = accept s.pinsNow.cmd s.popPins := by
  obtain ⟨hv, hr, hp⟩ := (accepts_iff s).1 h
  simp [step, edge, hv, hr, hp]

/-- An offered word is taken outside WARMUP, and the rest of the input stays. -/
theorem step_offer {s : State} {w : CmdWord} {ps : List Pins} (h : s.pins = Pins.offer w :: ps)
    (hp : s.phase ≠ .warmup) : step s = accept w { s with pins := ps } := by
  have hn : s.pinsNow = Pins.offer w := by rw [State.pinsNow, h]; rfl
  have ha : s.accepts = true := (accepts_iff s).2 ⟨by rw [hn]; rfl, by rw [hn]; rfl, hp⟩
  rw [step_accept ha, hn, State.popPins, h]
  rfl

theorem step_idle {s : State} (hr : s.pinsNow.rst = false) (hp : s.phase ≠ .warmup)
    (hv : s.pinsNow.cmdValid = false) : step s = .next (idleEdge s.popPins) := by
  simp [step, edge, hr, hp, hv]

theorem accept_ok {w : CmdWord} {i : Instr} (h : decode w = .ok i) (s : State) : accept w s = exec i s := by
  simp [accept, h]

theorem accept_error {w : CmdWord} {e : DecodeError} (h : decode w = .error e) (s : State) :
    accept w s = .next (badCmd w s) := by
  simp [accept, h]

/-- If an edge leads to `t`, then it is the reset edge, a tick, an accepted command, an accepted invalid word or an idle
edge (R73). -/
theorem step_cases {s t : State} (h : step s = .next t) :
    (s.pinsNow.rst = true ∧ t = resetEdge s.popPins) ∨
    (s.pinsNow.rst = false ∧ s.phase = .warmup ∧ t = tick s.popPins) ∨
    (s.accepts = true ∧ ∃ i, decode s.pinsNow.cmd = .ok i ∧ exec i s.popPins = .next t) ∨
    (s.accepts = true ∧ (∃ e, decode s.pinsNow.cmd = .error e) ∧ t = badCmd s.pinsNow.cmd s.popPins) ∨
    (s.pinsNow.rst = false ∧ s.phase ≠ .warmup ∧ s.pinsNow.cmdValid = false ∧ t = idleEdge s.popPins) := by
  by_cases hr : s.pinsNow.rst = true
  · rw [step_reset hr] at h
    exact .inl ⟨hr, (Host.Outcome.next.inj h).symm⟩
  have hr : s.pinsNow.rst = false := by simpa using hr
  by_cases hp : s.phase = .warmup
  · rw [step_tick hr hp] at h
    exact .inr (.inl ⟨hr, hp, (Host.Outcome.next.inj h).symm⟩)
  by_cases hv : s.pinsNow.cmdValid = true
  · have ha := (accepts_iff s).2 ⟨hv, hr, hp⟩
    rw [step_accept ha] at h
    cases hd : decode s.pinsNow.cmd with
    | ok i =>
      rw [accept_ok hd] at h
      exact .inr (.inr (.inl ⟨ha, i, rfl, h⟩))
    | error e =>
      rw [accept_error hd] at h
      exact .inr (.inr (.inr (.inl ⟨ha, ⟨e, rfl⟩, (Host.Outcome.next.inj h).symm⟩)))
  · have hv : s.pinsNow.cmdValid = false := by simpa using hv
    rw [step_idle hr hp hv] at h
    exact .inr (.inr (.inr (.inr ⟨hr, hp, hv, (Host.Outcome.next.inj h).symm⟩)))

/-- No edge stops the engine (R200). -/
theorem step_next (s : State) : ∃ t, step s = .next t := by
  by_cases ha : s.accepts = true
  · rw [step_accept ha]
    cases hd : decode s.pinsNow.cmd with
    | ok i =>
      obtain ⟨t, _, _, h, _⟩ := exec_next i s.popPins
      exact ⟨t, (accept_ok hd _).trans h⟩
    | error e => exact ⟨_, accept_error hd _⟩
  · by_cases hr : s.pinsNow.rst = true
    · exact ⟨_, step_reset hr⟩
    have hr : s.pinsNow.rst = false := by simpa using hr
    by_cases hp : s.phase = .warmup
    · exact ⟨_, step_tick hr hp⟩
    · have hv : s.pinsNow.cmdValid = false := by
        by_contra h
        exact ha ((accepts_iff s).2 ⟨by simpa using h, hr, hp⟩)
      exact ⟨_, step_idle hr hp hv⟩

/-! ### Runs -/

@[simp] theorem runs_zero (s t : State) : Runs 0 s t ↔ s = t := Iff.rfl

/-- A run of `n + 1` edges is an edge and a run of `n`. -/
theorem runs_succ {n : Nat} {s u : State} (h : step s = .next u) (t : State) : Runs (n + 1) s t ↔ Runs n u t := by
  constructor
  · rintro ⟨v, hv, ht⟩
    rw [h] at hv
    cases hv
    exact ht
  · exact fun ht => ⟨u, h, ht⟩

/-- A run of `m + n` edges is a run of `m` and then a run of `n`. -/
theorem runs_add {m : Nat} {s u : State} (h : Runs m s u) (n : Nat) (t : State) :
    Runs (m + n) s t ↔ Runs n u t := by
  induction m generalizing s with
  | zero =>
    cases h
    simp
  | succ m ih =>
    obtain ⟨v, hv, hu⟩ := h
    rw [Nat.succ_add, runs_succ hv]
    exact ih hu

/-- What holds after every step from a state that has it holds after every run. -/
theorem runs_induction {P : State → Prop} (hstep : ∀ s t, P s → step s = .next t → P t) {n : Nat} {s t : State}
    (hs : P s) (h : Runs n s t) : P t := by
  induction n generalizing s with
  | zero => exact h ▸ hs
  | succ n ih =>
    obtain ⟨u, hu, ht⟩ := h
    exact ih (hstep s u hs hu) ht

end Sys2Proof.Machine
end

