-- ==== Sys2Proof/Tests/Slice0.lean ====
section
/-! SUPPORT. The model's own tests. Every expected value is a vector of spec/95_test_vectors.md or an example of a rule,
named beside the test; none was taken from the model. After them stand the witnesses: for each statement with hypotheses,
concrete states and operands that meet them. -/

namespace Sys2Proof.Tests

open Sys2Proof.Machine Sys2Proof.Claims

/-! ### Helpers -/

/-- The next state of an outcome. -/
def after (o : Host.Outcome State Fault Refusal) : Option State :=
  match o with
  | .next t => some t
  | .fault _ => none
  | .refused _ => none

/-- The host offers `w` at the coming edge of `s`. -/
def offered (w : CmdWord) (s : State) : State := { s with pins := [Pins.offer w] }

/-- The host drives `rst` and a command at the coming edge of `s`. -/
def underReset (s : State) : State := { s with pins := [{ rst := true, cmdValid := true, cmd := 0x0000#16 }] }

/-- The response word and STATUS after the word `w` is accepted in `s`. -/
def answer (w : CmdWord) (s : State) : Option (RspWord × StatusWord) :=
  (after (step (offered w s))).map fun t => (t.rsp, t.status)

/-- The cells with the listed indices set and all others 0. -/
def cellsOf : List Nat → Cells
  | [] => 0#288
  | i :: is => BitVec.twoPow 288 i ||| cellsOf is

/-- An engine that is READY with the listed cells set. -/
def ready (is : List Nat) : State := { State.reset with phase := .ready, wcnt := 1152#11, cells := cellsOf is }

/-- An engine in WARMUP after `n` ticks, with cell 287 set. -/
def warming (n : Nat) : State := { State.reset with phase := .warmup, wcnt := BitVec.ofNat 11 n, cells := cellsOf [287] }

/-- The reset state with the counts KCNT and ICNT, the bytes received being 0. -/
def counted (k i : Nat) : State := { State.reset with kcnt := BitVec.ofNat 7 k, icnt := BitVec.ofNat 7 i }

/-! ### What is ill formed is refused (R7, R94) -/

theorem test_opDefined_refuses_0x8000 : opDefined 0x8000#16 = false ∧ validWord 0x8000#16 = false := by decide
theorem test_rsvZero_refuses_0x2A00 : rsvZero 0x2A00#16 = false ∧ validWord 0x2A00#16 = false := by decide
theorem test_dataAllowed_refuses_0x4001 : dataAllowed 0x4001#16 = false ∧ validWord 0x4001#16 = false := by decide
theorem test_valid_commands : [0x0000#16, 0x1000#16, 0x20FF#16, 0x3001#16, 0x4000#16, 0x5000#16, 0x6000#16, 0x7048#16].all
    validWord = true := by decide
theorem test_markers_nonempty_refuses : Config.MarkerCells.nonempty [] = false ∧ Config.MarkerCells.wf [] = false := by decide
theorem test_markers_topSegment_refuses_111 :
    Config.MarkerCells.inTopSegment [111] = false ∧ Config.MarkerCells.wf [111] = false := by decide
theorem test_markers_topSegment_bounds : Config.MarkerCells.wf [177, 287] = true ∧
    Config.MarkerCells.wf [176] = false ∧ Config.MarkerCells.wf [288] = false := by decide
theorem test_markers_rising_refuses : Config.MarkerCells.rising [287, 286] = false ∧
    Config.MarkerCells.wf [287, 286] = false := by decide
theorem test_profiles_wf : Config.markersDoc.wf = true ∧ Config.markersPublished.wf = true := by decide

/-! ### Decoding: the words EN-1 to EN-14 of the spec, every command among them -/

theorem test_decode_nop : decode 0b0000_0000_00000000#16 = .ok .nop := by decide
theorem test_decode_clr : decode 0b0001_0000_00000000#16 = .ok .clr := by decide
theorem test_decode_keyb : decode 0b0010_0000_11111111#16 = .ok (.keyb 0xFF#8) := by decide
theorem test_decode_ivb : decode 0b0011_0000_00000001#16 = .ok (.ivb 0x01#8) := by decide
theorem test_decode_init : decode 0b0100_0000_00000000#16 = .ok .init := by decide
theorem test_decode_stepb : decode 0b0101_0000_00000000#16 = .ok .stepb := by decide
theorem test_decode_ksb : decode 0b0110_0000_00000000#16 = .ok .ksb := by decide
theorem test_decode_xorb : decode 0b0111_0000_01001000#16 = .ok (.xorb 0x48#8) := by decide
theorem test_decode_refuses : [0x0001#16, 0x2A00#16, 0x4001#16, 0x7100#16, 0x8000#16, 0xF0FF#16].map decode =
    [.error .dataNotTaken, .error .nonzeroReserved, .error .dataNotTaken, .error .nonzeroReserved,
      .error .reservedOpcode, .error .reservedOpcode] := by decide
theorem test_encode : [Instr.nop, .clr, .keyb 0xFF#8, .ivb 0x01#8, .init, .stepb, .ksb, .xorb 0x48#8].map encode =
    [0x0000#16, 0x1000#16, 0x20FF#16, 0x3001#16, 0x4000#16, 0x5000#16, 0x6000#16, 0x7048#16] := by decide

/-- The table's words of the host: a row's word, and a word the decoder refuses. -/
theorem test_decodeTableWord : decodeTableWord 16 0x2001 = some (.keyb 0x01#8) ∧ decodeTableWord 16 0x8000 = none := by decide

/-- The word put before the machine after reset is the one the next step runs (example of R110). -/
theorem test_withFetchWord :
    (after (step (State.reset.withFetchWord 16 0x2001))).map (fun t => (t.rsp, t.kcnt)) = some (0x2000#16, 1#7) := by decide

/-- Before the last tick of WARMUP: the tick runs, and the very next step takes the word (R244). -/
theorem test_withFetchWord_warmup : (after (step ((warming 1151).withFetchWord 16 0x0000))).map
    (fun t => (t.rspV, t.phase)) = some (true, .ready) := by decide +kernel

/-! ### One step of the cells: rows ST-1 to ST-16 -/

/-- A row: the set cells, the output bit, the set cells of the next state. -/
def stepRow (r : List Nat × Bool × List Nat) : Bool := stepCells (cellsOf r.1) == (cellsOf r.2.2, r.2.1)

theorem test_step_rows_1_to_8 : ([([], false, []), ([65], true, [66, 93]), ([287], true, [0]),
    ([90, 91], false, [91, 92, 93]), ([170], false, [93, 171]), ([68], false, [0, 69]), ([263], false, [177, 264]),
    ([174, 175], false, [175, 176, 177])] : List (List Nat × Bool × List Nat)).all stepRow = true := by decide +kernel

theorem test_step_rows_9_to_15 : ([([285, 286], false, [0, 286, 287]), ([92], true, [93]), ([176], true, [177]),
    ([65, 92], false, [66]), ([161, 242], false, [0, 162, 177, 243]), ([0], false, [1]),
    ([279], false, [280])] : List (List Nat × Bool × List Nat)).all stepRow = true := by decide +kernel

theorem test_step_row_16 : stepRow (List.range 288, false, (List.range 288).filter (! [0, 93, 177].contains ·)) = true := by
  decide +kernel

/-! ### The commands, one step each -/

/-- CT-1. -/
theorem test_nop : answer 0x0000#16 State.reset = some (0x0000#16, 0x00000000#32) := by decide
/-- ER-8: LAST_ERR is sticky. -/
theorem test_nop_keeps_lastErr : answer 0x0000#16 { State.reset with lastErr := .notReady } =
    some (0x0000#16, 0x60000000#32) := by decide
/-- CT-3, ER-9. -/
theorem test_clr : answer 0x1000#16 { ready [287] with lastErr := .notReady } = some (0x1000#16, 0x00000000#32) := by decide
/-- CLR clears the cells (R181). -/
theorem test_clr_cells : (after (step (offered 0x1000#16 (ready [287])))).map State.cells = some 0#288 := by decide +kernel
/-- LD-1. -/
theorem test_keyb : answer 0x2001#16 State.reset = some (0x2000#16, 0x00000010#32) := by decide
/-- LD-2: the 81st byte saturates the count. -/
theorem test_keyb_saturates : answer 0x2000#16 (counted 80 0) = some (0x2000#16, 0x00000510#32) := by decide
/-- The example of R111: IBUF[79] = 0xFF, ICNT = 80. -/
theorem test_ivb : (after (step (offered 0x30FF#16 (counted 0 79)))).map (fun t => (t.ibuf[79], t.icnt, t.rsp)) =
    some (0xFF#8, 80#7, 0x3000#16) := by decide
/-- LD-4: ICNT 3 beside KCNT 81. -/
theorem test_ivb_status : answer 0x3000#16 (counted 81 2) = some (0x3000#16, 0x00001D10#32) := by decide
/-- LD-3: STATUS after INIT, and the only set cell. -/
theorem test_init : (after (step (offered 0x4000#16 (counted 80 80)))).map (fun t => (t.rsp, t.status, t.cells)) =
    some (0x4000#16, 0x00000005#32, cellsOf [287]) := by decide +kernel
/-- LD-5: both lengths wrong, the key reported. -/
theorem test_init_key_first : answer 0x4000#16 (counted 81 3) = some (0x4100#16, 0x20000000#32) := by decide
/-- ER-3. -/
theorem test_stepb_notReady : answer 0x5000#16 State.reset = some (0x5300#16, 0x60000000#32) := by decide
/-- ST-2: z = 1. -/
theorem test_stepb : answer 0x5000#16 (ready [65]) = some (0x5001#16, 0x12000002#32) := by decide +kernel
/-- ER-4. -/
theorem test_ksb_notReady : answer 0x6000#16 State.reset = some (0x6300#16, 0x60000000#32) := by decide
/-- WU-3: the first byte from the loaded state of DOC, ZERO, ZERO is 01: bit 0 is the first bit. -/
theorem test_ksb : answer 0x6000#16 (ready [287]) = some (0x6001#16, 0x12000002#32) := by decide +kernel
/-- XO-5. -/
theorem test_xorb_notReady : answer 0x7041#16 State.reset = some (0x7300#16, 0x60000000#32) := by decide
/-- WU-3, PUB: the first byte is 07, and 0x48 ^ 0x07 = 0x4F. -/
theorem test_xorb : answer 0x7048#16 (ready [285, 286, 287]) = some (0x704F#16, 0x12000002#32) := by decide +kernel

/-- CT-2, ER-1, ER-2, ER-5, ER-6, ER-7: an invalid word answers BAD_CMD whatever the phase. -/
theorem test_badCmd : [0x0001#16, 0x8000#16, 0x5001#16, 0x7100#16, 0xF0FF#16, 0x2A00#16].map (answer · State.reset) =
    [0x0400#16, 0x8400#16, 0x5400#16, 0x7400#16, 0xF400#16, 0x2400#16].map
      (fun r => some (r, 0x80000000#32)) := by decide
/-- LD-8b: an INIT word with D != 0 keeps the buffers. -/
theorem test_init_badCmd : answer 0x4001#16 (counted 80 80) = some (0x4400#16, 0x80028500#32) := by decide

/-! ### The edges at which no command is accepted -/

/-- WU-1, tick 1152. -/
theorem test_tick_last : (after (step (warming 1151))).map State.status = some 0x12000002#32 := by decide +kernel
/-- WU-1, tick 1151; a command offered meanwhile is not taken (R72). -/
theorem test_tick_holds : answer 0x1000#16 (warming 1150) = some (0x0000#16, 0x11FC0005#32) := by decide +kernel
/-- RS-1. -/
theorem test_reset : (after (step (underReset (ready [287])))).map (fun t => (t.rspV, t.rsp, t.status)) =
    some (false, 0x0000#16, 0x00000000#32) := by decide
/-- R73, case 4: RSP_V falls, RSP stays. -/
theorem test_idle : (after (step { State.reset with rspV := true, rsp := 0x2000#16 })).map (fun t => (t.rspV, t.rsp)) =
    some (false, 0x2000#16) := by decide

/-! ### The assembler notation (examples of R96) -/

theorem test_assemble_hex : assembleLine ['K', 'E', 'Y', 'B', ' ', '0', 'x', '3', 'A', ' ', ';', 'k'] =
    some (some 0x203A#16) := by decide
theorem test_assemble_decimal : assembleLine ['K', 'E', 'Y', 'B', ' ', '5', '8'] = some (some 0x203A#16) := by decide
theorem test_assemble_refuses : assembleLine ['K', 'E', 'Y', 'B', ' ', '2', '5', '6'] = none ∧
    assembleLine ['H', 'A', 'L', 'T'] = none ∧ assembleLine ['K', 'S', 'B', ' ', '1'] = none := by decide

/-! ### Witnesses: states and operands that meet the hypotheses of the statements, each clause at the ends of its range -/

/-- The host offers `w`, then drives nothing for 1152 edges. -/
def heldAfter (w : CmdWord) (s : State) : State := { s with pins := Pins.offer w :: List.replicate 1152 Pins.idle }

theorem idle_noReset (n : Nat) : NoReset (List.replicate n Pins.idle) := by
  intro p hp
  rw [List.eq_of_mem_replicate hp]
  rfl

theorem witness_ValidWordsAreTheDecodedWords : ∃ (w : CmdWord) (s : State), validWord w = false ∧ Accepted w s :=
  ⟨0x0001#16, offered 0x0001#16 State.reset, by decide, by decide, by decide⟩

theorem witness_OpcodeMapRowsDecide : ∃ (w v : CmdWord) (i j : Instr), w &&& maskOf i = matchOf i ∧
    w &&& maskOf j = matchOf j ∧ i ≠ j ∧ v &&& 0x8000#16 = 0x8000#16 :=
  ⟨0x7048#16, 0x8000#16, .xorb 0x00#8, .xorb 0x01#8, by decide, by decide, by decide, by decide⟩

theorem witness_OpcodeMapRowsDecide_noRow : ∀ i : Instr, 0x0001#16 &&& maskOf i ≠ matchOf i := by
  intro i
  cases i <;> simp only [maskOf, matchOf] <;> decide

theorem witness_ResponseWordFormat : ∃ s : State, s.accepts = true ∧ decode s.pinsNow.cmd = .ok (.keyb 0xFF#8) ∧
    takesKeystream (.keyb 0xFF#8) = false :=
  ⟨offered 0x20FF#16 State.reset, by decide, by decide, rfl⟩

theorem witness_EdgePrecedence_reset : (underReset (warming 0)).pinsNow.rst = true := rfl

theorem witness_EdgePrecedence_tick : (offered 0x1000#16 (warming 0)).pinsNow.rst = false ∧
    (offered 0x1000#16 (warming 0)).phase = .warmup := ⟨rfl, rfl⟩

theorem witness_EdgePrecedence_accept : (offered 0x5000#16 (ready [287])).pinsNow.rst = false ∧
    (offered 0x5000#16 (ready [287])).phase ≠ .warmup ∧ (offered 0x5000#16 (ready [287])).pinsNow.cmdValid = true ∧
    decode 0x5000#16 = .ok .stepb ∧ decode 0x5001#16 = .error .dataNotTaken := by decide

theorem witness_EdgePrecedence_idle : State.reset.pinsNow.rst = false ∧ State.reset.phase ≠ .warmup ∧
    State.reset.pinsNow.cmdValid = false := by decide

theorem witness_StepRunsTheDecodedCommand : ∃ (s : State) (i : Instr), s.accepts = true ∧
    decode s.pinsNow.cmd = .ok i :=
  ⟨offered 0x7048#16 (ready [287]), .xorb 0x48#8, by decide, by decide⟩

theorem witness_FetchWordIsTheNextCommand : decodeTableWord 16 0x7048 = some (.xorb 0x48#8) ∧
    State.reset.phase ≠ .warmup ∧ (warming 0).phase = .warmup := by decide

theorem witness_CommandAcceptance : (offered 0x0000#16 State.reset).accepts = true ∧
    (ready [287]).phase ≠ .warmup ∧ State.reset.phase ≠ .warmup ∧
    ({ warming 1151 with pins := [Pins.offer 0x1000#16] } : State).cmdReady = false ∧
    ({ State.reset with pins := [{ rst := true, cmdValid := true, cmd := 0x0000#16 }] } : State).cmdReady = false := by
  decide

theorem witness_ResponseRegister : (offered 0x0000#16 State.reset).accepts = true ∧
    (offered 0x0000#16 (warming 0)).accepts = false ∧ (offered 0x0000#16 (warming 0)).pinsNow.rst = false := by decide

theorem witness_ResetEdgeSetsEveryRegister : (underReset (ready [287])).pinsNow.rst = true ∧
    (underReset (warming 1151)).pinsNow.rst = true ∧ (underReset State.reset).pinsNow.rst = true := by decide

theorem witness_NoErrorStopsTheEngine : (offered 0x8000#16 State.reset).accepts = true ∧
    (after (step (offered 0x8000#16 State.reset))).map (fun t => rspCode t.rsp) = some 4#3 := by decide

theorem witness_ResetMeetsTheInvariant : Config.markersPublished.wf = true := by decide

/-- A READY state that meets the invariant. -/
theorem ready_inv : (ready [287]).Inv where
  markers_wf := by decide
  kcnt_range := by decide
  icnt_range := by decide
  kbuf_clean := by unfold BufferClean; decide
  ibuf_clean := by unfold BufferClean; decide
  empty_wcnt := by decide
  warmup_wcnt := by decide
  ready_wcnt := by decide
  empty_cells := by decide +kernel
  engine_cells := by decide +kernel
  rsp_zero_bit := by decide
  rsp_code_range := by decide
  rsp_error_data := by decide
  rsp_last_err := by decide

/-- A WARMUP state before the last tick that meets the invariant. -/
theorem warming_inv : (warming 1151).Inv where
  markers_wf := by decide
  kcnt_range := by decide
  icnt_range := by decide
  kbuf_clean := by unfold BufferClean; decide
  ibuf_clean := by unfold BufferClean; decide
  empty_wcnt := by decide
  warmup_wcnt := by decide
  ready_wcnt := by decide
  empty_cells := by decide +kernel
  engine_cells := by decide +kernel
  rsp_zero_bit := by decide
  rsp_code_range := by decide
  rsp_error_data := by decide
  rsp_last_err := by decide

/-- An EMPTY state with full buffers that meets the invariant. -/
theorem counted_inv : (counted 81 80).Inv where
  markers_wf := by decide
  kcnt_range := by decide
  icnt_range := by decide
  kbuf_clean := by unfold BufferClean; decide
  ibuf_clean := by unfold BufferClean; decide
  empty_wcnt := by decide
  warmup_wcnt := by decide
  ready_wcnt := by decide
  empty_cells := by decide +kernel
  engine_cells := by decide +kernel
  rsp_zero_bit := by decide
  rsp_code_range := by decide
  rsp_error_data := by decide
  rsp_last_err := by decide

theorem witness_StepKeepsTheInvariant : ∃ s t : State, s.Inv ∧ step s = .next t := by
  obtain ⟨t, h⟩ := step_next (ready [287])
  exact ⟨_, t, ready_inv, h⟩

theorem witness_StatusWordLayout : (ready [287]).Inv ∧ (warming 1151).Inv ∧ (counted 81 80).Inv :=
  ⟨ready_inv, warming_inv, counted_inv⟩

theorem witness_PhaseChangesOnlyAsSpecified : (after (step (warming 1151))).map State.phase = some .ready ∧
    (after (step (offered 0x4000#16 (counted 80 80)))).map State.phase = some .warmup ∧
    (after (step (offered 0x1000#16 (ready [287])))).map State.phase = some .empty := by decide +kernel

theorem witness_BusyIsSetAndClearedOnlyAsSpecified : (warming 0).busy = true ∧
    (offered 0x4000#16 (counted 80 80)).accepts = true ∧ ∃ t, step (warming 1151) = .next t :=
  ⟨by decide, by decide, step_next _⟩

theorem witness_CellsAreWrittenOnlyAsSpecified : ∃ s t : State, step s = .next t :=
  ⟨offered 0x7048#16 (ready [287]), step_next _⟩

theorem witness_HiddenStateIsNotShown : ∃ (s t t' u' : State) (S : Cells) (k v : Vector Byte 80), step s = .next t ∧
    step { s with cells := S } = .next t' ∧ S ≠ s.cells ∧
    ¬ (s.accepts = true ∧ s.phase = .ready ∧ ∃ i, decode s.pinsNow.cmd = .ok i ∧ takesKeystream i = true) ∧
    step { s with kbuf := k, ibuf := v } = .next u' ∧ ¬ Accepted 0x4000#16 s := by
  obtain ⟨t, h⟩ := step_next (warming 0)
  obtain ⟨t', h'⟩ := step_next { warming 0 with cells := 0#288 }
  obtain ⟨u', hu⟩ := step_next { warming 0 with kbuf := zeros, ibuf := zeros }
  have hn : (warming 0).accepts ≠ true := by decide
  exact ⟨warming 0, t, t', u', 0#288, zeros, zeros, h, h', by decide +kernel, fun a => hn a.1, hu, fun a => hn a.1⟩

theorem witness_MarkerCellsAreFixed : ∃ t : State, Runs 1 (warming 0) t := by
  obtain ⟨t, h⟩ := step_next (warming 0)
  exact ⟨t, t, h, rfl⟩

theorem witness_KeybAppendsOneKeyByte : (counted 79 0).kcnt.toNat < 80 ∧ 80 ≤ (counted 80 0).kcnt.toNat ∧
    (offered 0x20FF#16 (counted 79 0)).pinsNow = Pins.offer (0x20#8 ++ 0xFF#8) := by decide

theorem witness_LoaderCornerCases : (counted 1 1).kcnt.toNat ≤ 81 ∧
    (after (exec .clr (counted 1 1))).map (fun t => (t.kcnt, t.icnt)) = some (0#7, 0#7) ∧
    (∀ j : Fin 80, (Vector.replicate 80 0xFE#8)[j].getLsbD 0 = zeros[j].getLsbD 0) := by decide

theorem witness_IvbAppendsOneIvByte : (counted 0 79).icnt.toNat < 80 ∧ 80 ≤ (counted 0 80).icnt.toNat ∧
    (offered 0x3000#16 (counted 0 79)).pinsNow = Pins.offer (0x30#8 ++ 0x00#8) := by decide

theorem witness_InterleavedLoadKeepsEachOrder : (∀ i ∈ [Instr.keyb 0x01#8, .ivb 0x02#8, .keyb 0x03#8],
    ∃ d, i = .keyb d ∨ i = .ivb d) ∧ State.reset.kcnt = 0#7 ∧ State.reset.icnt = 0#7 := by
  refine ⟨fun i hi => ?_, rfl, rfl⟩
  simp only [List.mem_cons, List.not_mem_nil, or_false] at hi
  rcases hi with rfl | rfl | rfl
  · exact ⟨_, .inl rfl⟩
  · exact ⟨_, .inr rfl⟩
  · exact ⟨_, .inl rfl⟩

theorem witness_InitConstructsAnEngine_lengths : (counted 79 80).kcnt ≠ 80#7 ∧ (counted 81 80).kcnt ≠ 80#7 ∧
    (counted 80 79).kcnt = 80#7 ∧ (counted 80 79).icnt ≠ 80#7 ∧ (counted 80 81).icnt ≠ 80#7 := by decide

theorem witness_InitConstructsAnEngine_success : (counted 80 80).kcnt = 80#7 ∧ (counted 80 80).icnt = 80#7 ∧
    (counted 80 80).markers.wf = true ∧ (counted 80 80).kbuf = zeros ∧ (counted 80 80).ibuf = zeros ∧
    (counted 80 80).markers = Config.markersDoc ∧ (counted 80 80).lastErr = .ok := by decide

theorem witness_InvalidKeyLengthError : Accepted 0x4000#16 (offered 0x4000#16 (counted 79 80)) ∧
    (offered 0x4000#16 (counted 79 80)).kcnt ≠ 80#7 := ⟨⟨by decide, by decide⟩, by decide⟩

theorem witness_InvalidIvLengthError : Accepted 0x4000#16 (offered 0x4000#16 (counted 80 81)) ∧
    (offered 0x4000#16 (counted 80 81)).kcnt = 80#7 ∧ (offered 0x4000#16 (counted 80 81)).icnt ≠ 80#7 :=
  ⟨⟨by decide, by decide⟩, by decide, by decide⟩

theorem witness_InitConsumesTheBuffers : 0x01#8 ≠ 0x00#8 ∧
    Accepted (0x40#8 ++ 0x01#8) (offered 0x4001#16 (counted 80 80)) := ⟨by decide, by decide, by decide⟩

theorem witness_OnlyInitClrAndResetLowerTheCounts : (offered 0x1000#16 (counted 1 0)).kcnt = 1#7 ∧
    (after (step (offered 0x1000#16 (counted 1 0)))).map State.kcnt = some 0#7 ∧
    (after (step (offered 0x4000#16 (counted 81 80)))).map State.icnt = some 0#7 := by decide

theorem witness_UpperKeyAndIvBitsNeverShow : ∀ j : Fin 80,
    (Vector.replicate 80 0xFE#8)[j].getLsbD 0 = (counted 80 80).kbuf[j].getLsbD 0 ∧
    (Vector.replicate 80 0xFE#8)[j].getLsbD 0 = (counted 80 80).ibuf[j].getLsbD 0 := by decide

theorem witness_WarmupTick : (warming 1151).pinsNow.rst = false ∧ (warming 1151).phase = .warmup ∧
    (warming 1151).wcnt = 1151#11 ∧ (warming 0).wcnt ≠ 1151#11 ∧ (warming 1150).wcnt ≠ 1151#11 := by decide

theorem witness_WarmupTakes1152Ticks : ∃ (s : State) (hold rest : List Pins), Accepted 0x4000#16 s ∧ s.kcnt = 80#7 ∧
    s.icnt = 80#7 ∧ s.pins.tail = hold ++ rest ∧ hold.length = 1152 ∧ NoReset hold :=
  ⟨heldAfter 0x4000#16 (counted 80 80), List.replicate 1152 Pins.idle, [], ⟨rfl, rfl⟩, rfl, rfl,
    (List.append_nil _).symm, List.length_replicate, idle_noReset 1152⟩

theorem witness_OnlyResetEndsWarmupEarly : (underReset (warming 1150)).phase = .warmup ∧
    (underReset (warming 1150)).pinsNow.rst = true ∧ (underReset (warming 1150)).wcnt ≠ 1151#11 ∧
    (after (step (underReset (warming 1150)))).map State.phase = some .empty ∧ (counted 79 80).phase ≠ .warmup ∧
    (after (exec .init (counted 79 80))).map (fun t => rspCode t.rsp) = some 1#3 := by decide +kernel

theorem witness_ShiftRotationAndCircularBufferAgree (S : Cells) :
    (∀ i < 288, logical (cell S) 0 i = cell S i) ∧
    (∀ i < 288, logical (fun p => cell S ((p + 287) % 288)) 287 i = cell S i) := by
  constructor
  · intro i hi
    exact congrArg (cell S) (by omega)
  · intro i hi
    exact congrArg (cell S) (by omega)

theorem witness_StepFunctionCellByCell : ∀ i ∈ [1, 92, 94, 176, 178, 287], 1 ≤ i ∧ i < 288 ∧ i ≠ 93 ∧ i ≠ 177 := by
  decide

theorem witness_StepIsABijection : ∃ t : State, step (offered 0x5000#16 (ready [287])) = .next t := step_next _

theorem witness_StepReadsFifteenCells : (∀ i ∈ outputTaps, cell (cellsOf [0, 68, 90]) i = cell (cellsOf []) i) ∧
    (∀ i ∈ cellsRead, cell (cellsOf [0, 177]) i = cell (cellsOf []) i) ∧
    (∀ i ∈ [1, 92, 94, 176, 178, 287], i < 288 ∧ i ∉ [0, 93, 177]) := by decide +kernel

theorem witness_ByteCellsGiveTheSameKeystream : ∀ i < 288,
    ((fun _ => 0xFE#8 : Nat → Byte) i).getLsbD 0 = ((fun _ => 0x00#8 : Nat → Byte) i).getLsbD 0 := by
  intro i _
  show (0xFE#8).getLsbD 0 = (0x00#8).getLsbD 0
  decide

/-- A READY engine with any cells. -/
theorem ready_with (S : Cells) : ∃ s : State, s.phase = .ready ∧ s.cells = S :=
  ⟨{ ready [] with cells := S }, rfl, rfl⟩

theorem witness_StepbReturnsOneKeystreamBit : State.reset.phase ≠ .ready ∧ ∃ s : State, s.phase = .ready ∧
    s.cells = stepN 1152 (loadCells (Vector.ofFn fun j => BitVec.ofNat 8 (j.val % 2))
      (Vector.ofFn fun j => if 2 ≤ j.val % 4 then 0x01#8 else 0x00#8) Config.markersDoc) :=
  ⟨by decide, ready_with _⟩

theorem witness_KsbReturnsOneKeystreamByte : State.reset.phase ≠ .ready ∧ ∃ s : State, s.phase = .ready ∧
    s.cells = stepN 1152 (loadCells zeros zeros Config.markersDoc) :=
  ⟨by decide, ready_with _⟩

theorem witness_XorbCombinesOneDataByte : State.reset.phase ≠ .ready ∧ (0x7100#16).extractLsb' 12 4 = 0x7#4 ∧
    (0x7100#16).extractLsb' 8 4 ≠ 0x0#4 ∧ ∃ s : State, s.phase = .ready ∧
    s.cells = stepN 1152 (loadCells zeros zeros Config.markersDoc) :=
  ⟨by decide, by decide, by decide, witness_KsbReturnsOneKeystreamByte.2⟩

theorem witness_KeystreamIsConsumedInOrder : (ready [287]).phase = .ready ∧ (ready [287]).cells = stepN 0 (cellsOf [287]) ∧
    (∀ i ∈ [Instr.stepb, .ksb, .xorb 0x48#8], takesKeystream i = true) ∧
    (∀ j : Fin 80, zeros[j].getLsbD 0 = (Vector.replicate 80 0xFE#8)[j].getLsbD 0) := by decide +kernel

/-- From reset, the host sends ENGINE, drives nothing for 1152 edges, and sends ENC. -/
def constructing (k v : Vector Byte 80) (P : List Byte) : State :=
  { State.reset with pins := pseudoPins (.engine k v) ++ List.replicate 1152 Pins.idle ++ pseudoPins (.enc P) }

theorem witness_XorbRoundTrip (k v : Vector Byte 80) (P : List Byte) : ∃ (s : State) (hold : List Pins),
    s.phase ≠ .warmup ∧ s.kcnt = 0#7 ∧ s.icnt = 0#7 ∧ s.markers = Config.markersDefault ∧ hold.length = 1152 ∧
    NoReset hold ∧ s.pins = pseudoPins (.engine k v) ++ hold ++ pseudoPins (.enc P) ∧
    s.pins = pseudoPins (.engine k v) ++ hold ++ pseudoPins (.dec P) :=
  ⟨constructing k v P, List.replicate 1152 Pins.idle, Phase.noConfusion, rfl, rfl, rfl, List.length_replicate, idle_noReset 1152, rfl, rfl⟩

theorem witness_OtherwiseBadCmd : [0x0001#16, 0x1001#16, 0x4001#16, 0x5001#16, 0x6001#16, 0x7100#16].all (fun w =>
    (offered w State.reset).accepts && (offered w State.reset).pinsNow.cmd == w && w != 0x0000#16) = true := by decide

theorem witness_NopOnlyResponds : (0x0001#16).extractLsb' 12 4 = 0x0#4 ∧ 0x0001#16 ≠ 0x0000#16 ∧
    Accepted 0x0001#16 (offered 0x0001#16 State.reset) := ⟨by decide, by decide, by decide, by decide⟩

theorem witness_ClrDestroysTheEngine : (0x1001#16).extractLsb' 12 4 = 0x1#4 ∧ 0x1001#16 ≠ 0x1000#16 ∧
    Accepted 0x1001#16 (offered 0x1001#16 (ready [287])) := ⟨by decide, by decide, by decide, by decide⟩

/-- An accepted word for each of the five codes: NOP, INIT with 79 and with 81 key bytes, INIT with 81 IV bytes, KSB in
EMPTY, an invalid word. -/
theorem witness_ResponseCodesHaveTheirCauses : ([(0x0000#16, State.reset), (0x4000#16, counted 79 80),
    (0x4000#16, counted 81 80), (0x4000#16, counted 80 81), (0x6000#16, State.reset), (0x8000#16, State.reset)].map
      fun x => ((offered x.1 x.2).accepts, (after (step (offered x.1 x.2))).map fun t => rspCode t.rsp)) =
    [(true, some 0#3), (true, some 1#3), (true, some 1#3), (true, some 2#3), (true, some 3#3), (true, some 4#3)] := by
  decide

theorem witness_EveryCommandResponds : (after (exec .ksb State.reset)).map (fun t => rspCode t.rsp) = some 3#3 ∧
    (after (exec .nop State.reset)).map (fun t => rspCode t.rsp) = some 0#3 := by decide

theorem witness_NotReadyError : ∃ (s : State) (i : Instr), takesKeystream i = true ∧ s.accepts = true ∧
    decode s.pinsNow.cmd = .ok i ∧ s.phase = .empty ∧ (warming 0).phase = .warmup :=
  ⟨offered 0x7041#16 State.reset, .xorb 0x41#8, by decide, by decide, by decide, by decide, by decide⟩

theorem witness_BadCmdError : (0x9000#16).extractLsb' 12 4 = 0x9#4 ∧
    Accepted 0x9000#16 (offered 0x9000#16 (ready [287])) := ⟨by decide, by decide, by decide⟩

theorem witness_ErrorPriority : validWord 0x5001#16 = false ∧ (offered 0x5001#16 State.reset).accepts = true ∧
    validWord 0x5000#16 = true ∧ (0x5000#16).extractLsb' 12 4 ∈ [0x5#4, 0x6#4, 0x7#4] ∧
    Accepted 0x4000#16 (offered 0x4000#16 (counted 81 3)) ∧ (counted 81 3).kcnt ≠ 80#7 ∧ (counted 81 3).icnt ≠ 80#7 :=
  ⟨by decide, by decide, by decide, by decide, ⟨by decide, by decide⟩, by decide, by decide⟩

theorem witness_LastErrIsSticky :
    (after (step (offered 0x8000#16 State.reset))).map (fun t => rspCode t.rsp) = some 4#3 ∧
    (after (step (offered 0x1000#16 State.reset))).map (fun t => rspCode t.rsp) = some 0#3 ∧
    (underReset State.reset).pinsNow.rst = true ∧ (warming 0).pinsNow.rst = false ∧ (warming 0).accepts = false := by
  decide

theorem witness_CommandsWriteOnlyTheirRegisters : (ready [287]).phase = .ready ∧ takesKeystream .stepb = true ∧
    (after (exec .init (counted 79 80))).map (fun t => rspCode t.rsp) = some 1#3 ∧
    (after (exec .init (counted 80 80))).map (fun t => rspCode t.rsp) = some 0#3 := by decide +kernel

theorem witness_AssemblerNotation : (∀ n ∈ [33, 38, 40, 58, 60, 126], 33 ≤ n ∧ n ≤ 126 ∧ n ≠ 39 ∧ n ≠ 59) ∧
    assembleLine ['.', 'w', 'o', 'r', 'd', ' ', '0', 'x', '8', '0', '0', '0'] = some (some 0x8000#16) ∧
    validWord 0x8000#16 = false := by decide

theorem witness_PseudoInstructionsExpand : State.reset.kcnt = 0#7 ∧ State.reset.icnt = 0#7 := ⟨rfl, rfl⟩

theorem witness_ReusedEngineGoesOnWithItsKeystream : (ready [287]).phase = .ready ∧
    (ready [287]).cells = stepN 0 (cellsOf [287]) ∧
    ∀ i < [0x61#8].length, [0x61#8 ^^^ keystreamByteAt (cellsOf [287]) 0][i]? =
      [0x61#8][i]?.map fun p => p ^^^ keystreamByteAt (cellsOf [287]) (0 + 8 * i) := by
  refine ⟨rfl, rfl, fun i hi => ?_⟩
  obtain rfl : i = 0 := by simpa using hi
  rfl

theorem witness_EachEdgeUsesOneInput : State.reset.pins = [] ∧ ∃ t : State, step (offered 0x0000#16 State.reset) = .next t :=
  ⟨rfl, step_next _⟩

theorem witness_AssemblerNotationChoices : isBlank ' ' = true ∧ isBlank (Char.ofNat 9) = true := by decide

end Sys2Proof.Tests
end

section
/-! SUPPORT. The state's invariant, register group by register group: the staged buffers, the engine, the response. Each group has
its own predicate over the registers it speaks of, `inv_iff` ties the four to `State.Inv`, and one lemma per operation says
that the operation establishes or keeps its group. -/

namespace Sys2Proof.Proofs

open Sys2Proof.Machine

/-! ### The groups of the invariant -/

/-- A staging buffer and its count: the count in range, the buffer 0 above it (R32, R33). -/
def StagedOk (buf : Vector Byte 80) (cnt : ByteCount) : Prop := cnt.toNat ≤ 81 ∧ BufferClean buf cnt

/-- PHASE against WCNT and the cells (R30, R35, R144). -/
def EngineOk : Phase → WarmCount → Cells → Prop
  | .empty, w, S => w = 0#11 ∧ S = 0#288
  | .warmup, w, S => w.toNat ≤ 1151 ∧ S ≠ 0#288
  | .ready, w, S => w = 1152#11 ∧ S ≠ 0#288

/-- RSP: its zero bit, its code and the data of an error, and LAST_ERR against it (R36, R91, R201, R208). -/
def ResponseOk (rsp : RspWord) (lastErr : RespCode) : Prop :=
  rsp.getLsbD 11 = false ∧ (rspCode rsp).toNat ≤ 4 ∧
    (rspCode rsp ≠ 0#3 → rspData rsp = 0x00#8 ∧ lastErr.bits = rspCode rsp)

/-- The engine's group in the five clauses of `State.Inv`. -/
theorem engineOk_iff (p : Phase) (w : WarmCount) (S : Cells) :
    EngineOk p w S ↔
      (p = .empty → w = 0#11) ∧ (p = .warmup → w.toNat ≤ 1151) ∧ (p = .ready → w = 1152#11) ∧
        (p = .empty → S = 0#288) ∧ (p ≠ .empty → S ≠ 0#288) := by
  cases p <;> simp [EngineOk]

/-- The invariant is MARKER_CELLS being well formed together with the three groups, the staged one for each buffer. -/
theorem inv_iff (s : State) :
    s.Inv ↔ s.markers.wf = true ∧ StagedOk s.kbuf s.kcnt ∧ StagedOk s.ibuf s.icnt ∧
      EngineOk s.phase s.wcnt s.cells ∧ ResponseOk s.rsp s.lastErr := by
  rw [engineOk_iff]
  constructor
  · intro h
    exact ⟨h.markers_wf, ⟨h.kcnt_range, h.kbuf_clean⟩, ⟨h.icnt_range, h.ibuf_clean⟩,
      ⟨h.empty_wcnt, h.warmup_wcnt, h.ready_wcnt, h.empty_cells, h.engine_cells⟩,
      h.rsp_zero_bit, h.rsp_code_range, fun hc => ⟨h.rsp_error_data hc, h.rsp_last_err hc⟩⟩
  · rintro ⟨hm, ⟨hk, hkc⟩, ⟨hi, hic⟩, ⟨h0, h1, h2, h3, h4⟩, hz, hr, hd⟩
    exact ⟨hm, hk, hi, hkc, hic, h0, h1, h2, h3, h4, hz, hr, fun hc => (hd hc).1, fun hc => (hd hc).2⟩

/-! ### The staging buffers -/

theorem stagedOk_cleared : StagedOk (Vector.replicate 80 0x00#8) 0#7 := ⟨by decide, bufferClean_replicate _⟩

theorem StagedOk.stageByte {buf : Vector Byte 80} {cnt : ByteCount} (h : StagedOk buf cnt) (d : Byte) :
    StagedOk (stageByte buf cnt d).1 (stageByte buf cnt d).2 :=
  ⟨stageByte_range buf cnt d, stageByte_clean d h.2⟩

/-! ### The engine -/

theorem engineOk_empty : EngineOk .empty 0#11 0#288 := ⟨rfl, rfl⟩

/-- What INIT constructs: the well-formed marker keeps the cells from being all 0 (R112). -/
theorem engineOk_loaded (k v : Vector Byte 80) {m : Config.MarkerCells} (hm : m.wf = true) :
    EngineOk .warmup 0#11 (loadCells k v m) :=
  ⟨by decide, loadCells_ne_zero k v hm⟩

/-- Stepping a READY engine keeps it one: only the all-zero state steps to the all-zero state (R144). -/
theorem EngineOk.ready_stepN {w : WarmCount} {S : Cells} (h : EngineOk .ready w S) (n : Nat) :
    EngineOk .ready w (stepN n S) :=
  ⟨h.1, stepN_ne_zero h.2 n⟩

/-- A warm-up tick: from 1151 on to READY at 1152, below that WARMUP with WCNT still at most 1151 (R130). -/
theorem EngineOk.tick {w : WarmCount} {S : Cells} (h : EngineOk .warmup w S) :
    EngineOk (if w = 1151#11 then .ready else .warmup) (w + 1#11) (stepCells S).1 := by
  obtain ⟨hw, hS⟩ := h
  have hN : (stepCells S).1 ≠ 0#288 := fun h0 => hS (eq_zero_of_stepCells h0)
  by_cases hlast : w = 1151#11
  · subst hlast
    exact ⟨by decide, hN⟩
  · rw [if_neg hlast]
    exact ⟨by bv_omega, hN⟩

/-! ### The response -/

theorem responseOk_reset : ResponseOk 0x0000#16 .ok := ⟨by decide, by decide, by decide⟩

/-- A response word is in order when an error carries no data and its code stands in LAST_ERR (R91, R208). -/
theorem responseOk_rspWord (w : CmdWord) {code lastErr : RespCode} {data : Byte}
    (h : code ≠ .ok → data = 0x00#8 ∧ lastErr = code) : ResponseOk (rspWord w code data) lastErr := by
  refine ⟨by simp, by simpa using code.bits_range, fun hc => ?_⟩
  obtain ⟨rfl, rfl⟩ := h (by simpa using hc)
  simp

end Sys2Proof.Proofs
end

section
/-! SUPPORT. What a command answers, read off its outcome, and that it keeps the groups of the invariant. -/

namespace Sys2Proof.Proofs

open Sys2Proof.Machine Sys2Proof.Claims

/-- Of a command's next state: RSP, RSP_V and LAST_ERR as it responded, MARKER_CELLS and the input untouched (R206). -/
theorem exec_responds {i : Instr} {s t : State} (h : exec i s = .next t) :
    ∃ (code : RespCode) (data : Byte), t.rsp = rspWord (encode i) code data ∧ t.rspV = true ∧ t.markers = s.markers ∧
      t.pins = s.pins ∧ (code ≠ .ok → data = 0x00#8 ∧ t.lastErr = code) := by
  obtain ⟨u, code, data, hu, hresp⟩ := exec_next i s
  obtain rfl : u = t := Host.Outcome.next.inj (hu.symm.trans h)
  exact ⟨code, data, hresp⟩

/-- The two ways a keystream command ends (R146, R147, R170). -/
theorem exec_keystream_cases {i : Instr} (hi : takesKeystream i = true) (s : State) :
    (s.phase ≠ .ready ∧ exec i s = .next (fail (encode i) .notReady s)) ∨
    (s.phase = .ready ∧ ∃ data : Byte,
      exec i s = .next (respond (encode i) .ok data { s with cells := stepN (bitsTaken i) s.cells })) := by
  by_cases hp : s.phase = .ready
  · refine .inr ⟨hp, ?_⟩
    cases i with
    | stepb => exact ⟨_, exec_stepb_ready hp⟩
    | ksb => exact ⟨_, exec_ksb_ready hp⟩
    | xorb d => exact ⟨_, exec_xorb_ready d hp⟩
    | nop | clr | keyb | ivb | init => cases hi
  · refine .inl ⟨hp, ?_⟩
    cases i with
    | stepb => exact exec_stepb_notReady hp
    | ksb => exact exec_ksb_notReady hp
    | xorb d => exact exec_xorb_notReady d hp
    | nop | clr | keyb | ivb | init => cases hi

/-- A keystream command touches no buffer, and steps the engine only when it is READY. -/
theorem exec_keystream_keeps_groups {i : Instr} {s t : State} (hi : takesKeystream i = true) (hs : s.Inv)
    (h : exec i s = .next t) :
    StagedOk t.kbuf t.kcnt ∧ StagedOk t.ibuf t.icnt ∧ EngineOk t.phase t.wcnt t.cells := by
  obtain ⟨-, hk, hv, he, -⟩ := (inv_iff s).1 hs
  rcases exec_keystream_cases hi s with ⟨-, e⟩ | ⟨hp, data, e⟩ <;> rw [e] at h <;> cases h
  · exact ⟨hk, hv, he⟩
  · refine ⟨hk, hv, ?_⟩
    rw [hp] at he
    simpa [hp] using he.ready_stepN (bitsTaken i)

/-- Every command keeps the buffers clean and the engine in order. -/
theorem exec_keeps_groups {i : Instr} {s t : State} (hs : s.Inv) (h : exec i s = .next t) :
    StagedOk t.kbuf t.kcnt ∧ StagedOk t.ibuf t.icnt ∧ EngineOk t.phase t.wcnt t.cells := by
  obtain ⟨hm, hk, hv, he, -⟩ := (inv_iff s).1 hs
  cases i with
  | nop => cases h; exact ⟨hk, hv, he⟩
  | clr => cases h; exact ⟨stagedOk_cleared, stagedOk_cleared, engineOk_empty⟩
  | keyb d => cases h; exact ⟨hk.stageByte d, hv, he⟩
  | ivb d => cases h; exact ⟨hk, hv.stageByte d, he⟩
  | init =>
    rcases exec_init_cases s with ⟨-, e⟩ | ⟨-, -, e⟩ | ⟨-, -, e⟩ <;> rw [e] at h <;> cases h
    · exact ⟨stagedOk_cleared, stagedOk_cleared, he⟩
    · exact ⟨stagedOk_cleared, stagedOk_cleared, he⟩
    · exact ⟨stagedOk_cleared, stagedOk_cleared, engineOk_loaded s.kbuf s.ibuf hm⟩
  | stepb | ksb | xorb => exact exec_keystream_keeps_groups rfl hs h

end Sys2Proof.Proofs
end

section
/-! PROOFS. The invariant along the edges of R73, one lemma per kind of edge, and the two statements about every step. -/

namespace Sys2Proof.Proofs

open Sys2Proof.Machine

/-- Using up an edge's input touches no register the invariant speaks of. -/
theorem popPins_inv {s : State} (hs : s.Inv) : s.popPins.Inv := (inv_iff _).2 ((inv_iff s).1 hs)

theorem resetEdge_inv {s : State} (hm : s.markers.wf = true) : (resetEdge s).Inv :=
  (inv_iff _).2 ⟨hm, stagedOk_cleared, stagedOk_cleared, engineOk_empty, responseOk_reset⟩

theorem tick_inv {s : State} (hs : s.Inv) (hp : s.phase = .warmup) : (tick s).Inv := by
  obtain ⟨hm, hk, hv, he, hr⟩ := (inv_iff s).1 hs
  rw [hp] at he
  exact (inv_iff _).2 ⟨hm, hk, hv, by simpa [hp] using he.tick, hr⟩

theorem exec_inv {i : Instr} {s t : State} (hs : s.Inv) (h : exec i s = .next t) : t.Inv := by
  obtain ⟨hk, hv, he⟩ := exec_keeps_groups hs h
  obtain ⟨code, data, hrsp, -, hmark, -, herr⟩ := exec_responds h
  exact (inv_iff t).2 ⟨hmark ▸ hs.markers_wf, hk, hv, he, hrsp ▸ responseOk_rspWord (encode i) herr⟩

theorem badCmd_inv {s : State} (w : CmdWord) (hs : s.Inv) : (badCmd w s).Inv := by
  obtain ⟨hm, hk, hv, he, -⟩ := (inv_iff s).1 hs
  exact (inv_iff _).2 ⟨hm, hk, hv, he, responseOk_rspWord w fun _ => ⟨rfl, rfl⟩⟩

/-- The idle edge writes RSP_V alone, of which the invariant does not speak. -/
theorem idleEdge_inv {s : State} (hs : s.Inv) : (idleEdge s).Inv := (inv_iff _).2 ((inv_iff s).1 hs)

/-- Settles O15, by the five kinds of edge (R73). -/
theorem stepKeepsTheInvariant : Obligations.StepKeepsTheInvariant := by
  unfold Obligations.StepKeepsTheInvariant
  intro s t hs h
  have hpop := popPins_inv hs
  rcases step_cases h with ⟨-, rfl⟩ | ⟨-, hp, rfl⟩ | ⟨-, i, -, hexec⟩ | ⟨-, -, rfl⟩ | ⟨-, -, -, rfl⟩
  · exact resetEdge_inv hpop.markers_wf
  · exact tick_inv hpop hp
  · exact exec_inv hpop hexec
  · exact badCmd_inv _ hpop
  · exact idleEdge_inv hpop

theorem step_markers {s t : State} (h : step s = .next t) : t.markers = s.markers := by
  rcases step_cases h with ⟨-, rfl⟩ | ⟨-, -, rfl⟩ | ⟨-, i, -, hexec⟩ | ⟨-, -, rfl⟩ | ⟨-, -, -, rfl⟩
  · rfl
  · rfl
  · obtain ⟨_, _, -, -, hmark, -⟩ := exec_responds hexec
    exact hmark
  · rfl
  · rfl

/-- Settles O21, by induction on the run. -/
theorem markerCellsAreFixed : Obligations.MarkerCellsAreFixed := by
  unfold Obligations.MarkerCellsAreFixed
  intro n s t hrun
  exact runs_induction (P := fun u => u.markers = s.markers) (fun _ _ hu h => (step_markers h).trans hu) rfl hrun

end Sys2Proof.Proofs
end

section
/-! SUPPORT. From a command word back to its encoding: what the decoder accepts is the word `(OP << 12) | D` of the command
it answers (spec/30_encoding.md R90, R96), so an edge that runs a command has accepted that command's own word. -/

namespace Sys2Proof.Proofs

open Sys2Proof.Machine Sys2Proof.Claims

/-- A word is its three fields OP, RSV and D (R90). -/
theorem append_fields (w : CmdWord) : opField w ++ rsvField w ++ dataField w = w := by
  rw [opField, rsvField, dataField, BitVec.extractLsb'_append_extractLsb'_eq_extractLsb' (by decide),
    BitVec.extractLsb'_append_extractLsb'_eq_extractLsb' (by decide), BitVec.extractLsb'_eq_self]

/-- A row's high byte with the data byte put in below it. -/
theorem append_zero_or_setWidth (h d : Byte) : (h ++ 0x00#8) ||| d.setWidth 16 = h ++ d := by
  apply BitVec.eq_of_getLsbD_eq
  intro k hk
  simp only [BitVec.getLsbD_or, BitVec.getLsbD_append, BitVec.getLsbD_setWidth]
  by_cases hk8 : k < 8
  · simp [hk8, show k < 16 by omega]
  · simp [hk8, BitVec.getLsbD_of_ge d k (by omega)]

theorem encode_keyb (d : Byte) : encode (.keyb d) = 0x20#8 ++ d := append_zero_or_setWidth 0x20#8 d
theorem encode_ivb (d : Byte) : encode (.ivb d) = 0x30#8 ++ d := append_zero_or_setWidth 0x30#8 d
theorem encode_xorb (d : Byte) : encode (.xorb d) = 0x70#8 ++ d := append_zero_or_setWidth 0x70#8 d

/-- A word accepted without operand is the word of its command: its opcode above twelve zeros. -/
theorem encode_of_decodePlain {w : CmdWord} {i j : Instr} {op : BitVec 4}
    (hj : encode j = op ++ 0x0#4 ++ 0x00#8) (hop : (opField w).toNat = op.toNat) (h : decodePlain w j = .ok i) :
    encode i = w := by
  unfold decodePlain at h
  split_ifs at h with hrsv hdata
  obtain rfl := Except.ok.inj h
  rw [← append_fields w, BitVec.eq_of_toNat_eq hop, not_not.1 hrsv, not_not.1 hdata, hj]

/-- A word accepted with the operand D is the word of its command: its opcode, RSV = 0 and D. -/
theorem encode_of_decodeData {w : CmdWord} {i : Instr} {f : Byte → Instr} {op : BitVec 4}
    (hf : ∀ d, encode (f d) = op ++ 0x0#4 ++ d) (hop : (opField w).toNat = op.toNat) (h : decodeData w f = .ok i) :
    encode i = w := by
  unfold decodeData at h
  split_ifs at h with hrsv
  obtain rfl := Except.ok.inj h
  rw [hf, ← not_not.1 hrsv, ← BitVec.eq_of_toNat_eq hop, append_fields]

/-- The decoder answers a command for that command's own word only, row by row of R93. -/
theorem encode_of_decode {w : CmdWord} {i : Instr} (h : decode w = .ok i) : encode i = w := by
  unfold decode at h
  split at h
  case h_1 hop => exact encode_of_decodePlain (op := 0x0#4) rfl hop h
  case h_2 hop => exact encode_of_decodePlain (op := 0x1#4) rfl hop h
  case h_3 hop => exact encode_of_decodeData (op := 0x2#4) encode_keyb hop h
  case h_4 hop => exact encode_of_decodeData (op := 0x3#4) encode_ivb hop h
  case h_5 hop => exact encode_of_decodePlain (op := 0x4#4) rfl hop h
  case h_6 hop => exact encode_of_decodePlain (op := 0x5#4) rfl hop h
  case h_7 hop => exact encode_of_decodePlain (op := 0x6#4) rfl hop h
  case h_8 hop => exact encode_of_decodeData (op := 0x7#4) encode_xorb hop h
  case h_9 => cases h

theorem accepted_encode {s : State} {i : Instr} (ha : s.accepts = true) (hd : decode s.pinsNow.cmd = .ok i) :
    Accepted (encode i) s :=
  ⟨ha, (encode_of_decode hd).symm⟩

/-- No command is accepted in WARMUP (R72). -/
theorem phase_ne_warmup_of_accepts {s : State} (ha : s.accepts = true) : s.phase ≠ .warmup :=
  ((accepts_iff s).1 ha).2.2

/-- An accepted word that decodes runs its command. -/
theorem step_accept_ok {s : State} {i : Instr} (ha : s.accepts = true) (hd : decode s.pinsNow.cmd = .ok i) :
    step s = exec i s.popPins :=
  (step_accept ha).trans (accept_ok hd _)

/-- An accepted word that does not decode is answered with BAD_CMD. -/
theorem step_accept_error {s : State} {e : DecodeError} (ha : s.accepts = true)
    (hd : decode s.pinsNow.cmd = .error e) : step s = .next (badCmd s.pinsNow.cmd s.popPins) :=
  (step_accept ha).trans (accept_error hd _)

end Sys2Proof.Proofs
end

section
/-! PROOFS. The response register (spec/10_state.md R37), the invariant at reset, and the STATUS word (R38). -/

namespace Sys2Proof.Proofs

open Sys2Proof.Machine Sys2Proof.Claims

/-! ### RSP and RSP_V -/

/-- An edge that accepts a word writes a response of that word (R37, R206). -/
theorem step_responds {s : State} (ha : s.accepts = true) :
    ∃ t : State, step s = .next t ∧ t.rspV = true ∧
      ∃ (code : RespCode) (data : Byte), t.rsp = rspWord s.pinsNow.cmd code data := by
  cases hd : decode s.pinsNow.cmd with
  | ok i =>
    obtain ⟨t, code, data, ht, hrsp, hv, -⟩ := exec_next i s.popPins
    rw [encode_of_decode hd] at hrsp
    exact ⟨t, (step_accept_ok ha hd).trans ht, hv, code, data, hrsp⟩
  | error e => exact ⟨_, step_accept_error ha hd, rfl, .badCmd, 0x00#8, rfl⟩

/-- An edge that accepts nothing lowers RSP_V, and only the reset edge among them writes RSP (R37, R73). -/
theorem step_keeps_rsp {s t : State} (ha : s.accepts = false) (h : step s = .next t) :
    t.rspV = false ∧ (s.pinsNow.rst = false → t.rsp = s.rsp) := by
  rcases step_cases h with ⟨hr, rfl⟩ | ⟨-, -, rfl⟩ | ⟨ha', -⟩ | ⟨ha', -⟩ | ⟨-, -, -, rfl⟩
  · exact ⟨rfl, fun hr' => absurd (hr.symm.trans hr') (by decide)⟩
  · exact ⟨rfl, fun _ => rfl⟩
  · exact absurd (ha'.symm.trans ha) (by decide)
  · exact absurd (ha'.symm.trans ha) (by decide)
  · exact ⟨rfl, fun _ => rfl⟩

/-- Settles O10, by whether the edge accepts a word. -/
theorem responseRegister : Obligations.ResponseRegister := by
  unfold Obligations.ResponseRegister
  refine ⟨fun s ha => step_responds ha, fun s ha => ?_, rfl, rfl⟩
  obtain ⟨t, ht⟩ := step_next s
  exact ⟨t, ht, step_keeps_rsp ha ht⟩

/-! ### The state after reset -/

/-- The reset state is what the reset edge leaves, which meets the invariant for every well-formed MARKER_CELLS. -/
theorem reset_inv {m : Config.MarkerCells} (ps : List Pins) (hm : m.wf = true) :
    ({ State.reset with markers := m, pins := ps } : State).Inv :=
  resetEdge_inv (s := { State.reset with markers := m, pins := ps }) hm

/-- Settles O14, by the reset edge's lemma. -/
theorem resetMeetsTheInvariant : Obligations.ResetMeetsTheInvariant := by
  unfold Obligations.ResetMeetsTheInvariant
  have hdefault : Config.markersDefault.wf = true := by decide
  exact ⟨reset_inv [] hdefault, fun _ ps hm => reset_inv ps hm⟩

/-! ### The fields of STATUS -/

/-- The field at the low end of a word. -/
theorem extractLsb'_append_low {v w : Nat} (x : BitVec v) (y : BitVec w) : (x ++ y).extractLsb' 0 w = y := by
  rw [BitVec.extractLsb'_append_eq_of_add_le (by omega), BitVec.extractLsb'_eq_self]

theorem status_phase (s : State) : s.status.extractLsb' 0 2 = s.phase.bits := extractLsb'_append_low _ _

theorem status_busy (s : State) : s.status.getLsbD 2 = s.busy := by
  simp only [State.status, BitVec.getLsbD_append]
  simp

theorem status_reserved (s : State) : s.status.getLsbD 3 = false := by
  simp only [State.status, BitVec.getLsbD_append]
  simp

theorem status_kcnt (s : State) : s.status.extractLsb' 4 7 = s.kcnt := by
  rw [State.status]
  iterate 3 rw [BitVec.extractLsb'_append_eq_of_le (by decide)]
  exact extractLsb'_append_low _ _

theorem status_icnt (s : State) : s.status.extractLsb' 11 7 = s.icnt := by
  rw [State.status]
  iterate 4 rw [BitVec.extractLsb'_append_eq_of_le (by decide)]
  exact extractLsb'_append_low _ _

theorem status_wcnt (s : State) : s.status.extractLsb' 18 11 = s.wcnt := by
  rw [State.status]
  iterate 5 rw [BitVec.extractLsb'_append_eq_of_le (by decide)]
  exact extractLsb'_append_low _ _

theorem status_lastErr (s : State) : s.status.extractLsb' 29 3 = s.lastErr.bits := by
  rw [State.status]
  iterate 6 rw [BitVec.extractLsb'_append_eq_of_le (by decide)]
  exact BitVec.extractLsb'_eq_self

theorem busy_iff (s : State) : s.busy = true ↔ s.phase = .warmup := by simp [State.busy]

theorem busy_eq_false_iff (s : State) : s.busy = false ↔ s.phase ≠ .warmup := by simp [State.busy]

/-! ### Its legal values -/

/-- PHASE 3 is never produced (R34). -/
theorem phase_bits_range (p : Phase) : p.bits.toNat ≤ 2 := by cases p <;> decide

/-- WCNT holds 0 to 1152 (R35). -/
theorem EngineOk.wcnt_range {p : Phase} {w : WarmCount} {S : Cells} (h : EngineOk p w S) : w.toNat ≤ 1152 := by
  cases p with
  | empty => rw [h.1]; decide
  | warmup => exact h.1.trans (by decide)
  | ready => rw [h.1]; decide

/-- Settles O16, by the field lemmas of STATUS and the groups of the invariant. -/
theorem statusWordLayout : Obligations.StatusWordLayout := by
  unfold Obligations.StatusWordLayout
  refine ⟨fun s => ?_, by decide, fun s hs => ?_, rfl, rfl, rfl⟩
  · exact ⟨status_phase s, status_busy s ▸ busy_iff s, status_reserved s, status_kcnt s, status_icnt s, status_wcnt s,
      status_lastErr s⟩
  · obtain ⟨-, hk, hi, he, -⟩ := (inv_iff s).1 hs
    rw [status_phase, status_kcnt, status_icnt, status_wcnt, status_lastErr]
    exact ⟨phase_bits_range _, hk.1, hi.1, he.wcnt_range, RespCode.bits_range _⟩

end Sys2Proof.Proofs
end

section
/-! PROOFS. The writers of the engine, PHASE and the cells S (spec/10_state.md R30, R34, R39): said once for a command and
once for an edge, and the three statements read off it. -/

namespace Sys2Proof.Proofs

open Sys2Proof.Machine Sys2Proof.Claims

/-! ### What a command and an edge do to PHASE and the cells -/

/-- What a command that takes `s` to `t` does to PHASE and the cells. -/
inductive CommandOnEngine (s t : State) : Instr → Prop where
  /-- The engine stays as it was. -/
  | kept {i : Instr} (hphase : t.phase = s.phase) (hcells : t.cells = s.cells) : CommandOnEngine s t i
  /-- CLR destroys it (R181). -/
  | cleared (hphase : t.phase = .empty) (hcells : t.cells = 0#288) : CommandOnEngine s t .clr
  /-- INIT, with both counts 80, constructs one (R112). -/
  | constructed (hk : s.kcnt = 80#7) (hv : s.icnt = 80#7) (hphase : t.phase = .warmup)
      (hcells : t.cells = loadCells s.kbuf s.ibuf s.markers) : CommandOnEngine s t .init
  /-- A keystream command in READY steps it (R148). -/
  | stepped {i : Instr} (hi : takesKeystream i = true) (hready : s.phase = .ready) (hphase : t.phase = s.phase)
      (hcells : t.cells = stepN (bitsTaken i) s.cells) : CommandOnEngine s t i

theorem exec_keystream_onEngine {i : Instr} {s t : State} (hi : takesKeystream i = true) (h : exec i s = .next t) :
    CommandOnEngine s t i := by
  rcases exec_keystream_cases hi s with ⟨-, e⟩ | ⟨hp, data, e⟩ <;> rw [e] at h <;> cases h
  · exact .kept rfl rfl
  · exact .stepped hi hp rfl rfl

theorem exec_onEngine {i : Instr} {s t : State} (h : exec i s = .next t) : CommandOnEngine s t i := by
  cases i with
  | nop | keyb | ivb => cases h; exact .kept rfl rfl
  | clr => cases h; exact .cleared rfl rfl
  | init =>
    rcases exec_init_cases s with ⟨-, e⟩ | ⟨-, -, e⟩ | ⟨hk, hv, e⟩ <;> rw [e] at h <;> cases h
    · exact .kept rfl rfl
    · exact .kept rfl rfl
    · exact .constructed hk hv rfl rfl
  | stepb | ksb | xorb => exact exec_keystream_onEngine rfl h

/-- What the edge that takes `s` to `t` does to PHASE and the cells, with its cause. -/
inductive EdgeOnEngine (s t : State) : Prop where
  /-- Reset (R240). -/
  | reset (hr : s.pinsNow.rst = true) (hphase : t.phase = .empty) (hcells : t.cells = 0#288)
  /-- A warm-up tick (R130). -/
  | tick (hr : s.pinsNow.rst = false) (hp : s.phase = .warmup)
      (hphase : t.phase = if s.wcnt = 1151#11 then .ready else .warmup) (hcells : t.cells = (stepCells s.cells).1)
  /-- An accepted command. -/
  | command (i : Instr) (ha : Accepted (encode i) s) (he : CommandOnEngine s.popPins t i)
  /-- An accepted invalid word or an idle edge: the engine stays as it was (R73, R205). -/
  | kept (hp : s.phase ≠ .warmup) (hphase : t.phase = s.phase) (hcells : t.cells = s.cells)

theorem step_onEngine {s t : State} (h : step s = .next t) : EdgeOnEngine s t := by
  rcases step_cases h with ⟨hr, rfl⟩ | ⟨hr, hp, rfl⟩ | ⟨ha, i, hd, hexec⟩ | ⟨ha, -, rfl⟩ | ⟨-, hp, -, rfl⟩
  · exact .reset hr rfl rfl
  · exact .tick hr hp (by simp [hp]) rfl
  · exact .command i (accepted_encode ha hd) (exec_onEngine hexec)
  · exact .kept (phase_ne_warmup_of_accepts ha) rfl rfl
  · exact .kept hp rfl rfl

/-! ### PHASE -/

/-- Settles O17, by what an edge does to the engine. -/
theorem phaseChangesOnlyAsSpecified : Obligations.PhaseChangesOnlyAsSpecified := by
  unfold Obligations.PhaseChangesOnlyAsSpecified
  intro s t h hne
  cases step_onEngine h with
  | reset hr hphase _ => exact .inr (.inr ⟨hphase, .inl hr⟩)
  | tick hr hp hphase _ =>
    by_cases hlast : s.wcnt = 1151#11
    · exact .inr (.inl ⟨hphase.trans (if_pos hlast), hp, hr, hlast⟩)
    · exact absurd (hphase.trans ((if_neg hlast).trans hp.symm)) hne
  | command i ha he =>
    cases he with
    | kept hphase _ => exact absurd hphase hne
    | cleared hphase _ => exact .inr (.inr ⟨hphase, .inr ha⟩)
    | constructed hk hv hphase _ => exact .inl ⟨hphase, ha, hk, hv⟩
    | stepped _ _ hphase _ => exact absurd hphase hne
  | kept _ hphase _ => exact absurd hphase hne

/-! ### BUSY -/

/-- INIT with both counts 80 starts the warm-up (R112). -/
theorem step_init_ok_phase {s t : State} (h : step s = .next t) (ha : Accepted 0x4000#16 s) (hk : s.kcnt = 80#7)
    (hv : s.icnt = 80#7) : t.phase = .warmup := by
  rw [step_accept_ok (i := .init) ha.1 (by rw [ha.2]; rfl), exec_init_ok (s := s.popPins) hk hv] at h
  cases h
  rfl

/-- An edge enters WARMUP exactly when it accepts INIT with both counts 80. -/
theorem step_enters_warmup_iff {s t : State} (h : step s = .next t) :
    (s.phase ≠ .warmup ∧ t.phase = .warmup) ↔ (Accepted 0x4000#16 s ∧ s.kcnt = 80#7 ∧ s.icnt = 80#7) := by
  constructor
  · rintro ⟨hs, ht⟩
    rcases phaseChangesOnlyAsSpecified s t h (fun e => hs (e ▸ ht)) with ⟨-, hinit⟩ | ⟨hready, -⟩ | ⟨hempty, -⟩
    · exact hinit
    · exact absurd (hready.symm.trans ht) (by decide)
    · exact absurd (hempty.symm.trans ht) (by decide)
  · rintro ⟨ha, hk, hv⟩
    exact ⟨phase_ne_warmup_of_accepts ha.1, step_init_ok_phase h ha hk hv⟩

/-- In WARMUP an edge leaves the phase exactly at reset or at the tick from WCNT 1151. -/
theorem step_leaves_warmup_iff {s t : State} (h : step s = .next t) (hp : s.phase = .warmup) :
    t.phase ≠ .warmup ↔ (s.pinsNow.rst = true ∨ s.wcnt = 1151#11) := by
  cases step_onEngine h with
  | reset hr hphase _ => simp [hr, hphase]
  | tick hr _ hphase _ => by_cases hlast : s.wcnt = 1151#11 <;> simp [hr, hphase, hlast]
  | command i ha _ => exact absurd hp (phase_ne_warmup_of_accepts ha.1)
  | kept hs _ _ => exact absurd hp hs

/-- Settles O18, by when an edge enters and leaves WARMUP. -/
theorem busyIsSetAndClearedOnlyAsSpecified : Obligations.BusyIsSetAndClearedOnlyAsSpecified := by
  unfold Obligations.BusyIsSetAndClearedOnlyAsSpecified
  refine ⟨fun s => (status_busy s).symm, fun s t h => ⟨?_, ?_⟩, fun s hb ha => ?_, fun s ha => ?_⟩
  · rw [busy_eq_false_iff, busy_iff]
    exact step_enters_warmup_iff h
  · rw [busy_eq_false_iff, busy_iff]
    exact and_congr_right (step_leaves_warmup_iff h)
  · exact phase_ne_warmup_of_accepts ha.1 ((busy_iff s).1 hb)
  · obtain ⟨t, ht, -, code, data, hrsp⟩ := step_responds ha
    exact ⟨t, code, ht, hrsp ▸ rspWord_code _ code data⟩

/-! ### The cells -/

/-- Settles O19, by what an edge does to the engine. -/
theorem cellsAreWrittenOnlyAsSpecified : Obligations.CellsAreWrittenOnlyAsSpecified := by
  unfold Obligations.CellsAreWrittenOnlyAsSpecified
  intro s t h
  cases step_onEngine h with
  | reset hr _ hcells => exact .inl ⟨hr, hcells⟩
  | tick hr hp _ hcells => exact .inr (.inl ⟨hr, hp, hcells⟩)
  | kept _ _ hcells =>
    iterate 7 right
    exact hcells
  | command i ha he =>
    cases he with
    | kept _ hcells =>
      iterate 7 right
      exact hcells
    | cleared _ hcells => exact .inr (.inr (.inl ⟨ha, hcells⟩))
    | constructed hk hv _ hcells => exact .inr (.inr (.inr (.inl ⟨ha, hk, hv, hcells⟩)))
    | stepped hi hready _ hcells =>
      cases i with
      | stepb => exact .inr (.inr (.inr (.inr (.inl ⟨ha, hready, hcells⟩))))
      | ksb => exact .inr (.inr (.inr (.inr (.inr (.inl ⟨ha, hready, hcells⟩)))))
      | xorb d =>
        exact .inr (.inr (.inr (.inr (.inr (.inr (.inl ⟨⟨d, encode_xorb d ▸ ha⟩, hready, hcells⟩))))))
      | nop | clr | keyb | ivb | init => cases hi

end Sys2Proof.Proofs
end

section
/-! PROOFS. Hidden state (spec/10_state.md R43): a command, and then an edge, run on a state with other cells or other buffer
contents answers the same state but for what is hidden. -/

namespace Sys2Proof.Proofs

open Sys2Proof.Machine Sys2Proof.Claims

/-! ### The answers of the keystream commands -/

/-- Outside READY a keystream command fails with NOT_READY (R204). -/
theorem exec_keystream_notReady {i : Instr} {s : State} (hi : takesKeystream i = true) (hp : s.phase ≠ .ready) :
    exec i s = .next (fail (encode i) .notReady s) :=
  ((exec_keystream_cases hi s).resolve_right fun h => hp h.1).2

/-- In READY the data a keystream command answers is a function of the cells (R146, R147, R170). -/
theorem exec_keystream_ready {i : Instr} (hi : takesKeystream i = true) :
    ∃ data : Cells → Byte, ∀ s : State, s.phase = .ready →
      exec i s = .next (respond (encode i) .ok (data s.cells) { s with cells := stepN (bitsTaken i) s.cells }) := by
  cases i with
  | stepb => exact ⟨fun S => zext8 (stepCells S).2, fun _ hp => exec_stepb_ready hp⟩
  | ksb => exact ⟨fun S => (keystreamByte S).2, fun _ hp => exec_ksb_ready hp⟩
  | xorb d => exact ⟨fun S => d ^^^ (keystreamByte S).2, fun _ hp => exec_xorb_ready d hp⟩
  | nop | clr | keyb | ivb | init => cases hi

/-- A keystream command neither reads nor writes the buffers. -/
theorem exec_keystream_withBuffers {i : Instr} {s t : State} (k v : Vector Byte 80) (hi : takesKeystream i = true)
    (h : exec i s = .next t) : exec i { s with kbuf := k, ibuf := v } = .next { t with kbuf := k, ibuf := v } := by
  by_cases hp : s.phase = .ready
  · obtain ⟨data, hdata⟩ := exec_keystream_ready hi
    rw [hdata s hp] at h
    cases h
    exact hdata { s with kbuf := k, ibuf := v } hp
  · rw [exec_keystream_notReady hi hp] at h
    cases h
    exact exec_keystream_notReady (s := { s with kbuf := k, ibuf := v }) hi hp

/-! ### Other cells -/

/-- What a command does outside the cells does not depend on them, unless it takes keystream in READY. -/
theorem exec_withCells {i : Instr} {s t : State} (S : Cells) (hi : ¬ (s.phase = .ready ∧ takesKeystream i = true))
    (h : exec i s = .next t) : ∃ S', exec i { s with cells := S } = .next { t with cells := S' } := by
  cases i with
  | nop | clr | keyb | ivb => cases h; exact ⟨_, rfl⟩
  | init =>
    rcases exec_init_cases s with ⟨hk, e⟩ | ⟨hk, hv, e⟩ | ⟨hk, hv, e⟩ <;> rw [e] at h <;> cases h
    · exact ⟨_, exec_init_key (s := { s with cells := S }) hk⟩
    · exact ⟨_, exec_init_iv (s := { s with cells := S }) hk hv⟩
    · exact ⟨_, exec_init_ok (s := { s with cells := S }) hk hv⟩
  | stepb | ksb | xorb =>
    have hp : s.phase ≠ .ready := fun hp => hi ⟨hp, rfl⟩
    rw [exec_keystream_notReady (by rfl) hp] at h
    cases h
    exact ⟨_, exec_keystream_notReady (s := { s with cells := S }) rfl hp⟩

/-- The same of an edge. -/
theorem step_withCells {s t : State} (S : Cells) (h : step s = .next t)
    (hk : ¬ (s.accepts = true ∧ s.phase = .ready ∧ ∃ i, decode s.pinsNow.cmd = .ok i ∧ takesKeystream i = true)) :
    ∃ S', step { s with cells := S } = .next { t with cells := S' } := by
  rcases step_cases h with ⟨hr, rfl⟩ | ⟨hr, hp, rfl⟩ | ⟨ha, i, hd, hexec⟩ | ⟨ha, ⟨e, hd⟩, rfl⟩ | ⟨hr, hp, hv, rfl⟩
  · exact ⟨_, step_reset (s := { s with cells := S }) hr⟩
  · exact ⟨_, step_tick (s := { s with cells := S }) hr hp⟩
  · obtain ⟨S', hS⟩ := exec_withCells (s := s.popPins) S (fun hi => hk ⟨ha, hi.1, i, hd, hi.2⟩) hexec
    exact ⟨S', (step_accept_ok (s := { s with cells := S }) ha hd).trans hS⟩
  · exact ⟨_, step_accept_error (s := { s with cells := S }) ha hd⟩
  · exact ⟨_, step_idle (s := { s with cells := S }) hr hp hv⟩

/-! ### Other buffer contents -/

/-- The new count does not depend on the buffer. -/
theorem stageByte_count_congr (buf buf' : Vector Byte 80) (cnt : ByteCount) (d : Byte) :
    (stageByte buf cnt d).2 = (stageByte buf' cnt d).2 := by
  apply BitVec.eq_of_toNat_eq
  rw [stageByte_count, stageByte_count]

/-- What a command does outside the buffers does not depend on their contents, but for the cells that INIT loads. -/
theorem exec_withBuffers {i : Instr} {s t : State} (k v : Vector Byte 80) (h : exec i s = .next t) :
    ∃ k' v' S', exec i { s with kbuf := k, ibuf := v } = .next { t with kbuf := k', ibuf := v', cells := S' } ∧
      (i ≠ .init → S' = t.cells) := by
  cases i with
  | nop | clr => cases h; exact ⟨_, _, _, rfl, fun _ => rfl⟩
  | keyb d =>
    cases h
    rw [exec_keyb, stageByte_count_congr k s.kbuf]
    exact ⟨_, _, _, rfl, fun _ => rfl⟩
  | ivb d =>
    cases h
    rw [exec_ivb, stageByte_count_congr v s.ibuf]
    exact ⟨_, _, _, rfl, fun _ => rfl⟩
  | init =>
    rcases exec_init_cases s with ⟨hk, e⟩ | ⟨hk, hv, e⟩ | ⟨hk, hv, e⟩ <;> rw [e] at h <;> cases h
    · exact ⟨_, _, _, exec_init_key (s := { s with kbuf := k, ibuf := v }) hk, fun _ => rfl⟩
    · exact ⟨_, _, _, exec_init_iv (s := { s with kbuf := k, ibuf := v }) hk hv, fun _ => rfl⟩
    · exact ⟨_, _, _, exec_init_ok (s := { s with kbuf := k, ibuf := v }) hk hv, fun hi => absurd rfl hi⟩
  | stepb | ksb | xorb => exact ⟨k, v, _, exec_keystream_withBuffers k v rfl h, fun _ => rfl⟩

/-- The same of an edge. -/
theorem step_withBuffers {s t : State} (k v : Vector Byte 80) (h : step s = .next t) :
    ∃ k' v' S', step { s with kbuf := k, ibuf := v } = .next { t with kbuf := k', ibuf := v', cells := S' } ∧
      (¬ Accepted 0x4000#16 s → S' = t.cells) := by
  rcases step_cases h with ⟨hr, rfl⟩ | ⟨hr, hp, rfl⟩ | ⟨ha, i, hd, hexec⟩ | ⟨ha, ⟨e, hd⟩, rfl⟩ | ⟨hr, hp, hv, rfl⟩
  · exact ⟨_, _, _, step_reset (s := { s with kbuf := k, ibuf := v }) hr, fun _ => rfl⟩
  · exact ⟨_, _, _, step_tick (s := { s with kbuf := k, ibuf := v }) hr hp, fun _ => rfl⟩
  · obtain ⟨k', v', S', hS, hcells⟩ := exec_withBuffers (s := s.popPins) k v hexec
    refine ⟨k', v', S', (step_accept_ok (s := { s with kbuf := k, ibuf := v }) ha hd).trans hS, fun hn => hcells ?_⟩
    rintro rfl
    exact hn (accepted_encode ha hd)
  · exact ⟨_, _, _, step_accept_error (s := { s with kbuf := k, ibuf := v }) ha hd, fun _ => rfl⟩
  · exact ⟨_, _, _, step_idle (s := { s with kbuf := k, ibuf := v }) hr hp hv, fun _ => rfl⟩

/-- Settles O20, by running the edge again on the other cells, and on the other buffers. -/
theorem hiddenStateIsNotShown : Obligations.HiddenStateIsNotShown := by
  unfold Obligations.HiddenStateIsNotShown
  refine ⟨fun _ _ _ _ => rfl, fun s t t' S h h' hk => ?_, fun s t t' k v h h' => ?_⟩
  · obtain ⟨S', hS⟩ := step_withCells S h hk
    cases hS.symm.trans h'
    rfl
  · obtain ⟨k', v', S', hS, hcells⟩ := step_withBuffers k v h
    cases hS.symm.trans h'
    exact ⟨rfl, hcells⟩

end Sys2Proof.Proofs
end

section
/-! SUPPORT. What an edge takes from the host (spec/20_memory.md R72, R73): the list's first entry decides and is used
up, an offer waits while `cmd_ready` is 0, and an accepted word is run alike whatever input follows it. -/

namespace Sys2Proof.Proofs

open Sys2Proof.Machine

theorem cmdReady_iff (s : State) : s.cmdReady = true ↔ s.pinsNow.rst = false ∧ s.phase ≠ .warmup := by
  simp [State.cmdReady]

theorem accepts_iff_cmdReady (s : State) : s.accepts = true ↔ s.pinsNow.cmdValid = true ∧ s.cmdReady = true := by
  simp [State.accepts]

/-- A word is offered without reset exactly when the list starts with such an offer. -/
theorem pinsNow_offers_iff (s : State) :
    s.pinsNow.cmdValid = true ∧ s.pinsNow.rst = false ↔
      ∃ (w : CmdWord) (ps : List Pins), s.pins = Pins.offer w :: ps := by
  rw [State.pinsNow]
  constructor
  · rintro ⟨hv, hr⟩
    cases hps : s.pins with
    | nil => rw [hps] at hv; cases hv
    | cons p ps =>
      rw [hps] at hv hr
      obtain ⟨rst, valid, w⟩ := p
      cases hv
      cases hr
      exact ⟨w, ps, rfl⟩
  · rintro ⟨w, ps, hps⟩
    rw [hps]
    exact ⟨rfl, rfl⟩

/-- An accepted word, valid or not, is answered, and no later input is used up. -/
theorem accept_next (w : CmdWord) (s : State) : ∃ t, accept w s = .next t ∧ t.rspV = true ∧ t.pins = s.pins := by
  cases hd : decode w with
  | ok i =>
    obtain ⟨t, _, _, ht, -, hv, -, hps, -⟩ := exec_next i s
    exact ⟨t, (accept_ok hd s).trans ht, hv, hps⟩
  | error e => exact ⟨_, accept_error hd s, rfl, rfl⟩

/-- What an accepted word does depends on no later input, and carries it along. -/
theorem accept_withPins {w : CmdWord} {s t : State} (ps : List Pins) (h : accept w s = .next t) :
    accept w { s with pins := ps } = .next { t with pins := ps } := by
  cases hd : decode w with
  | ok i =>
    rw [accept_ok hd] at h ⊢
    exact exec_withPins ps h
  | error e =>
    rw [accept_error hd] at h ⊢
    cases h
    rfl

/-- While `cmd_ready` is 0 the edge is the reset edge or a tick, and `rst` decides which (R73, cases 1 and 2). -/
theorem step_notReady {s : State} (h : s.cmdReady = false) :
    step s = .next (if s.pinsNow.rst then resetEdge s.popPins else tick s.popPins) := by
  cases hr : s.pinsNow.rst with
  | true => exact step_reset hr
  | false =>
    have hp : s.phase = .warmup := by
      by_contra hp
      exact absurd ((cmdReady_iff s).2 ⟨hr, hp⟩) (by simp [h])
    exact step_tick hr hp

/-- An edge reads the list only through its first entry and the entries after it. -/
theorem step_congr {s t : State} (hnow : s.pinsNow = t.pinsNow) (hpop : s.popPins = t.popPins) : step s = step t := by
  have hphase : s.phase = t.phase := by simpa using congrArg State.phase hpop
  simp only [step, edge, hnow, hpop, hphase]

/-- Every edge uses up the first entry of the list (log entry 1). -/
theorem step_pins {s t : State} (h : step s = .next t) : t.pins = s.pins.tail := by
  rcases step_cases h with ⟨-, rfl⟩ | ⟨-, -, rfl⟩ | ⟨-, i, -, hexec⟩ | ⟨-, -, rfl⟩ | ⟨-, -, -, rfl⟩
  · rfl
  · rfl
  · obtain ⟨_, _, -, -, -, hps, -⟩ := exec_responds hexec
    exact hps
  · rfl
  · rfl

end Sys2Proof.Proofs
end

section
/-! PROOFS. The handshake and the edge (spec/20_memory.md R72, R73), and the model's input list. -/

namespace Sys2Proof.Proofs

open Sys2Proof.Machine

/-- Settles O9, by the lemmas on `cmd_ready`, on an accepted word and on an edge that takes none. -/
theorem commandAcceptance : Obligations.CommandAcceptance := by
  unfold Obligations.CommandAcceptance
  refine ⟨cmdReady_iff, accepts_iff_cmdReady, fun s => ?_, fun s w ps qs hp => ?_, fun s p q ps hrst hready => ?_⟩
  · rw [accepts_iff, ← pinsNow_offers_iff, ← and_assoc, and_comm]
  · have hstep (rs : List Pins) : step { s with pins := Pins.offer w :: rs } = accept w { s with pins := rs } :=
      step_offer rfl hp
    obtain ⟨t, ht, hv, hps⟩ := accept_next w { s with pins := ps }
    have hother : accept w { s with pins := qs } = .next { t with pins := qs } :=
      accept_withPins (s := { s with pins := ps }) qs ht
    exact ⟨hstep ps, t, (hstep ps).trans ht, hv, hps, (hstep qs).trans hother⟩
  · have hready' : ({ s with pins := q :: ps } : State).cmdReady = false := by
      simpa [State.cmdReady, hrst] using hready
    rw [step_notReady hready, step_notReady hready', pinsNow_cons, pinsNow_cons, hrst]
    exact ⟨rfl, _, rfl, by split <;> rfl⟩

/-- Settles O57, by the kinds of edge and what an edge reads of the list. -/
theorem eachEdgeUsesOneInput : Obligations.EachEdgeUsesOneInput := by
  unfold Obligations.EachEdgeUsesOneInput
  refine ⟨fun s t h => step_pins h, fun s hs => step_congr ?_ ?_⟩
  · simp [State.pinsNow, hs]
  · simp [State.popPins, hs]

/-- Settles O6, by the equation of each kind of edge. -/
theorem edgePrecedence : Obligations.EdgePrecedence := by
  unfold Obligations.EdgePrecedence
  refine fun s => ⟨step_reset, step_tick, fun hr hp hv => ?_, step_idle⟩
  have ha : s.accepts = true := (accepts_iff s).2 ⟨hv, hr, hp⟩
  exact ⟨fun i hd => step_accept_ok ha hd, fun e hd => step_accept_error ha hd⟩

/-- Settles O7, by the equation of an accepted command. -/
theorem stepRunsTheDecodedCommand : Obligations.StepRunsTheDecodedCommand := by
  unfold Obligations.StepRunsTheDecodedCommand
  exact fun s i ha hd => step_accept_ok ha hd

end Sys2Proof.Proofs
end

section
/-! PROOFS. Loading in any interleaving (spec/20_memory.md R75): staging a list of bytes one after another, and a list
of KEYB and IVB commands as two such stagings side by side. -/

namespace Sys2Proof.Proofs

open Sys2Proof.Machine Sys2Proof.Claims

/-! ### Staging a list of bytes -/

/-- The bytes staged one after another, first to last (R110, R111). -/
def stageAll : List Byte → Vector Byte 80 → ByteCount → Vector Byte 80 × ByteCount
  | [], buf, cnt => (buf, cnt)
  | d :: ds, buf, cnt => stageAll ds (stageByte buf cnt d).1 (stageByte buf cnt d).2

/-- The count rises by the number of bytes and saturates at 81. -/
theorem stageAll_count (ds : List Byte) (buf : Vector Byte 80) {cnt : ByteCount} (h : cnt.toNat ≤ 81) :
    (stageAll ds buf cnt).2.toNat = min (cnt.toNat + ds.length) 81 := by
  induction ds generalizing buf cnt with
  | nil => exact (min_eq_left h).symm
  | cons d ds ih =>
    rw [stageAll, ih _ (stageByte_range buf cnt d), stageByte_count, List.length_cons]
    split_ifs <;> omega

/-- The bytes land from the count on, in their order; the other entries stay. -/
theorem stageAll_entry (ds : List Byte) (buf : Vector Byte 80) (cnt : ByteCount) (j : Fin 80) :
    (stageAll ds buf cnt).1[j] = if cnt.toNat ≤ j.val then (ds[j.val - cnt.toNat]?).getD buf[j] else buf[j] := by
  induction ds generalizing buf cnt with
  | nil => simp [stageAll]
  | cons d ds ih =>
    rw [stageAll, ih, stageByte_entry, stageByte_count]
    rcases lt_trichotomy cnt.toNat j.val with hlt | heq | hgt
    · have hnext : j.val - cnt.toNat = j.val - (cnt.toNat + 1) + 1 := by omega
      rw [if_pos (by omega : cnt.toNat < 80), if_pos (by omega), if_neg hlt.ne, if_pos hlt.le, hnext,
        List.getElem?_cons_succ]
    · rw [if_pos (by omega : cnt.toNat < 80), if_neg (by omega), if_pos heq, if_pos heq.le, heq, Nat.sub_self]
      rfl
    · rw [if_neg (by split_ifs <;> omega), if_neg hgt.ne', if_neg (by omega)]

/-! ### A list of loading commands -/

theorem execAll_cons {i : Instr} {s t : State} (h : exec i s = .next t) (is : List Instr) :
    execAll (i :: is) s = execAll is t := by
  rw [execAll, h]

/-- The two streams are staged apart, each in its own order, and the rest of the state stays but for RSP and RSP_V. -/
theorem execAll_load {is : List Instr} (hload : ∀ i ∈ is, ∃ d, i = .keyb d ∨ i = .ivb d) (s : State) :
    ∃ (r : RspWord) (v : Bool), execAll is s = some { s with
      kbuf := (stageAll (keyBytes is) s.kbuf s.kcnt).1, kcnt := (stageAll (keyBytes is) s.kbuf s.kcnt).2,
      ibuf := (stageAll (ivBytes is) s.ibuf s.icnt).1, icnt := (stageAll (ivBytes is) s.ibuf s.icnt).2,
      rsp := r, rspV := v } := by
  induction is generalizing s with
  | nil => exact ⟨s.rsp, s.rspV, rfl⟩
  | cons i is ih =>
    obtain ⟨hi, his⟩ := List.forall_mem_cons.1 hload
    obtain ⟨d, rfl | rfl⟩ := hi
    · rw [execAll_cons (exec_keyb d s)]
      exact ih his _
    · rw [execAll_cons (exec_ivb d s)]
      exact ih his _

/-- Settles O24, by the two stagings from count 0. -/
theorem interleavedLoadKeepsEachOrder : Obligations.InterleavedLoadKeepsEachOrder := by
  unfold Obligations.InterleavedLoadKeepsEachOrder
  intro is s hload hk hv
  obtain ⟨r, v, ht⟩ := execAll_load hload s
  refine ⟨_, ht, rfl, ?_, ?_, fun j => ?_, fun j => ?_⟩
  · simp [stageAll_count, hk]
  · simp [stageAll_count, hv]
  · simpa [hk] using stageAll_entry (keyBytes is) s.kbuf s.kcnt j
  · simpa [hv] using stageAll_entry (ivBytes is) s.ibuf s.icnt j

end Sys2Proof.Proofs
end

section
/-! PROOFS. Decoder and encoder are inverse (spec/30_encoding.md R90 to R96). -/

namespace Sys2Proof.Proofs

open Sys2Proof.Machine

/-! ### The fields of a word written as its fields -/

@[simp] theorem opField_append (op rsv : BitVec 4) (d : Byte) : opField (op ++ rsv ++ d) = op := by
  rw [opField, BitVec.extractLsb'_append_eq_of_le (by decide)]
  exact BitVec.extractLsb'_append_eq_left

@[simp] theorem rsvField_append (op rsv : BitVec 4) (d : Byte) : rsvField (op ++ rsv ++ d) = rsv := by
  rw [rsvField, BitVec.extractLsb'_append_eq_of_le (by decide)]
  exact BitVec.extractLsb'_append_eq_right

@[simp] theorem dataField_append (op rsv : BitVec 4) (d : Byte) : dataField (op ++ rsv ++ d) = d :=
  extractLsb'_append_low _ _

/-! ### Decoder and encoder -/

/-- A word of a row that takes data, with RSV = 0, decodes with the operand D. -/
theorem decode_dataRow {op : BitVec 4} {f : Byte → Instr} (hrow : ∀ w, opField w = op → decode w = decodeData w f)
    (d : Byte) : decode (op ++ 0x0#4 ++ d) = .ok (f d) := by
  rw [hrow _ (opField_append op 0x0#4 d)]
  simp [decodeData]

/-- The decoder reads each command back from its word. -/
theorem decode_encode (i : Instr) : decode (encode i) = .ok i := by
  cases i with
  | nop | clr | init | stepb | ksb => rfl
  | keyb d => rw [encode_keyb]; exact decode_dataRow (op := 0x2#4) (fun w hop => by rw [decode, hop]; rfl) d
  | ivb d => rw [encode_ivb]; exact decode_dataRow (op := 0x3#4) (fun w hop => by rw [decode, hop]; rfl) d
  | xorb d => rw [encode_xorb]; exact decode_dataRow (op := 0x7#4) (fun w hop => by rw [decode, hop]; rfl) d

theorem decode_eq_ok_iff (w : CmdWord) (i : Instr) : decode w = .ok i ↔ encode i = w :=
  ⟨encode_of_decode, fun h => h ▸ decode_encode i⟩

theorem encode_injective : Function.Injective encode := fun i j h =>
  Except.ok.inj ((decode_encode i).symm.trans (h ▸ decode_encode j))

/-- Settles O1, by the two directions of `decode_eq_ok_iff`. -/
theorem decodeInvertsEncode : Obligations.DecodeInvertsEncode := by
  unfold Obligations.DecodeInvertsEncode
  exact decode_eq_ok_iff

/-- Settles O4, by the words of the eight commands; each of the other three words fails its own check. -/
theorem specWordsDecode : Obligations.SpecWordsDecode := by
  unfold Obligations.SpecWordsDecode
  exact ⟨decode_encode .nop, decode_encode .clr, decode_encode (.keyb 0xFF#8), decode_encode (.ivb 0x01#8),
    decode_encode .init, decode_encode .stepb, decode_encode .ksb, decode_encode (.xorb 0x48#8), rfl, rfl, rfl⟩

end Sys2Proof.Proofs
end

section
/-! PROOFS. The valid words (spec/30_encoding.md R94, R205): they are the encoder's words, and so 773 in number. -/

namespace Sys2Proof.Proofs

open Sys2Proof.Machine Sys2Proof.Claims Sys2Proof.Laws

/-! ### The validity check -/

/-- The validity check as the three conditions of R94, on the fields. -/
theorem validWord_iff (w : CmdWord) : validWord w = true ↔
    (opField w).toNat ≤ 0x7 ∧ rsvField w = 0x0#4 ∧
      (opField w ∈ [0x2#4, 0x3#4, 0x7#4] ∨ dataField w = 0x00#8) := by
  simp [validWord, opDefined, rsvZero, dataAllowed, opField, rsvField, dataField, BitVec.le_def, and_assoc]

/-- Each command's word lies in its own row and is valid (R93, R94). -/
theorem encode_in_row (i : Instr) : EncodingRow.Statement i := by
  cases i with
  | nop => exact EncodingRow.nop
  | clr => exact EncodingRow.clr
  | keyb d => exact EncodingRow.keyb d
  | ivb d => exact EncodingRow.ivb d
  | init => exact EncodingRow.init
  | stepb => exact EncodingRow.stepb
  | ksb => exact EncodingRow.ksb
  | xorb d => exact EncodingRow.xorb d

theorem opcode_cases : ∀ op : BitVec 4, op.toNat ≤ 0x7 → op = 0x0#4 ∨ op = 0x1#4 ∨ op = 0x2#4 ∨ op = 0x3#4 ∨
    op = 0x4#4 ∨ op = 0x5#4 ∨ op = 0x6#4 ∨ op = 0x7#4 := by decide

/-- The valid words are the encoder's words: of a row that takes no data the one word, of another row one for each D. -/
theorem validWord_iff_encode (w : CmdWord) : validWord w = true ↔ ∃ i, encode i = w := by
  refine ⟨fun hw => ?_, fun ⟨i, hi⟩ => hi ▸ (encode_in_row i).2⟩
  obtain ⟨hop, hrsv, hdata⟩ := (validWord_iff w).1 hw
  obtain ⟨op, d, rfl⟩ : ∃ (op : BitVec 4) (d : Byte), w = op ++ 0x0#4 ++ d :=
    ⟨opField w, dataField w, by rw [← hrsv, append_fields]⟩
  simp only [opField_append, dataField_append] at hop hdata
  have hplain (hop : op ∉ [0x2#4, 0x3#4, 0x7#4]) : d = 0x00#8 := hdata.resolve_left hop
  obtain rfl | rfl | rfl | rfl | rfl | rfl | rfl | rfl := opcode_cases op hop
  · exact ⟨.nop, by rw [hplain (by decide)]; rfl⟩
  · exact ⟨.clr, by rw [hplain (by decide)]; rfl⟩
  · exact ⟨.keyb d, encode_keyb d⟩
  · exact ⟨.ivb d, encode_ivb d⟩
  · exact ⟨.init, by rw [hplain (by decide)]; rfl⟩
  · exact ⟨.stepb, by rw [hplain (by decide)]; rfl⟩
  · exact ⟨.ksb, by rw [hplain (by decide)]; rfl⟩
  · exact ⟨.xorb d, encode_xorb d⟩

theorem validWord_iff_decode (w : CmdWord) : validWord w = true ↔ ∃ i, decode w = .ok i :=
  (validWord_iff_encode w).trans (exists_congr fun i => (decode_eq_ok_iff w i).symm)

/-- An invalid word is refused by the decoder. -/
theorem exists_decode_error {w : CmdWord} (hw : validWord w = false) : ∃ e, decode w = .error e := by
  cases hd : decode w with
  | ok i => exact absurd ((validWord_iff_decode w).2 ⟨i, hd⟩) (by simp [hw])
  | error e => exact ⟨e, rfl⟩

/-- An accepted invalid word completes with BAD_CMD (R205). -/
theorem failsAsBadCmd_of_invalid {w : CmdWord} (hw : validWord w = false) : FailsAsBadCmd w := by
  rintro s ⟨ha, rfl⟩
  obtain ⟨e, hd⟩ := exists_decode_error hw
  exact step_accept_error ha hd

/-! ### How many words are valid -/

/-- The five commands without operand. -/
def plainCommands : Finset Instr := {.nop, .clr, .init, .stepb, .ksb}

/-- A command with each of the 256 operands. -/
def dataCommands (f : Byte → Instr) : Finset Instr := Finset.univ.image f

/-- All commands of the opcode map. -/
def allCommands : Finset Instr :=
  plainCommands ∪ (dataCommands .keyb ∪ (dataCommands .ivb ∪ dataCommands .xorb))

theorem mem_plainCommands (i : Instr) :
    i ∈ plainCommands ↔ i = .nop ∨ i = .clr ∨ i = .init ∨ i = .stepb ∨ i = .ksb := by
  simp [plainCommands]

theorem mem_dataCommands (f : Byte → Instr) (i : Instr) : i ∈ dataCommands f ↔ ∃ d, f d = i := by
  simp [dataCommands]

theorem mem_allCommands (i : Instr) : i ∈ allCommands := by
  cases i <;> simp [allCommands, mem_plainCommands, mem_dataCommands]

theorem card_byte : Fintype.card Byte = 256 :=
  FinEnum.card_eq_fintypeCard.symm.trans (FinEnum.card_bitVec 8)

theorem card_dataCommands {f : Byte → Instr} (hf : Function.Injective f) : (dataCommands f).card = 256 := by
  rw [dataCommands, Finset.card_image_of_injective _ hf, Finset.card_univ, card_byte]

/-- Stated for variable sets: on the closed sets themselves the kernel would count the elements one by one. -/
theorem card_disjoint_union {A B : Finset Instr} {m n : Nat} (h : Disjoint A B) (hA : A.card = m) (hB : B.card = n) :
    (A ∪ B).card = m + n := by
  rw [Finset.card_union_of_disjoint h, hA, hB]

/-- Five commands without operand and three times 256 with one. -/
theorem card_allCommands : allCommands.card = 5 + (256 + (256 + 256)) := by
  refine card_disjoint_union ?_ rfl (card_disjoint_union ?_ (card_dataCommands fun _ _ => Instr.keyb.inj)
    (card_disjoint_union ?_ (card_dataCommands fun _ _ => Instr.ivb.inj) (card_dataCommands fun _ _ => Instr.xorb.inj)))
  all_goals simp [Finset.disjoint_left, mem_plainCommands, mem_dataCommands]

/-- The valid words are the images of the commands, no two of which share a word. -/
theorem card_validWords : (Finset.univ.filter fun w : CmdWord => validWord w = true).card = 773 := by
  have himage : (Finset.univ.filter fun w : CmdWord => validWord w = true) = allCommands.image encode := by
    ext w
    simp [validWord_iff_encode, mem_allCommands]
  rw [himage, Finset.card_image_of_injective _ encode_injective, card_allCommands]

theorem card_cmdWord : Fintype.card CmdWord = 65536 :=
  FinEnum.card_eq_fintypeCard.symm.trans (FinEnum.card_bitVec 16)

/-- The words that fail a Boolean check are the rest of the 65536. (For a variable check: see above.) -/
theorem card_filter_false {p : CmdWord → Bool} {n : Nat} (h : (Finset.univ.filter fun w => p w = true).card = n) :
    (Finset.univ.filter fun w => p w = false).card = 65536 - n := by
  have hsum := Finset.card_filter_add_card_filter_not (s := (Finset.univ : Finset CmdWord)) fun w => p w = true
  simp only [Bool.not_eq_true, Finset.card_univ, card_cmdWord, h] at hsum
  exact Nat.eq_sub_of_add_eq' hsum

/-- Settles O2, by the encoder's words: they are the valid ones, the decoded ones and 773 in number. -/
theorem validWordsAreTheDecodedWords : Obligations.ValidWordsAreTheDecodedWords := by
  unfold Obligations.ValidWordsAreTheDecodedWords
  exact ⟨validWord_iff, validWord_iff_decode, fun w hw => failsAsBadCmd_of_invalid hw, card_validWords,
    card_filter_false card_validWords⟩

end Sys2Proof.Proofs
end

section
/-! PROOFS. The rows of the opcode map (spec/30_encoding.md R93) and the response word of every accepted word (R91). -/

namespace Sys2Proof.Proofs

open Sys2Proof.Machine Sys2Proof.Claims

/-! ### The rows of the opcode map -/

theorem encodedAs_of_encode {m : CmdWord} {i : Instr} (hi : encode i = m) : EncodedAs m i := by
  intro w
  rw [decode_eq_ok_iff, hi, eq_comm, show (0xFFFF#16 : CmdWord) = BitVec.allOnes 16 from by decide, BitVec.and_allOnes]

/-- Masking with 0xFF00 compares the high byte; the low one is D. -/
theorem and_highByte_eq_iff (w : CmdWord) (h : Byte) : w &&& 0xFF00#16 = h ++ 0x00#8 ↔ h ++ dataField w = w := by
  obtain ⟨g, d, rfl⟩ : ∃ g d : Byte, w = g ++ d :=
    ⟨opField w ++ rsvField w, dataField w, (append_fields w).symm⟩
  have hmask : (g ++ d) &&& 0xFF00#16 = g ++ 0x00#8 := by
    rw [show 0xFF00#16 = BitVec.allOnes 8 ++ 0x00#8 from by decide, BitVec.and_append, BitVec.and_allOnes,
      BitVec.and_zero]
  rw [hmask, dataField, extractLsb'_append_low, BitVec.append_left_inj, BitVec.append_left_inj, eq_comm]

theorem encodedWithData_of_encode {m : CmdWord} {h : Byte} {f : Byte → Instr} (hf : ∀ d, encode (f d) = h ++ d)
    (hm : m = h ++ 0x00#8) : EncodedWithData m f := by
  intro w
  rw [hm, and_highByte_eq_iff, decode_eq_ok_iff, hf, dataField]

/-- Every row fixes the opcode, so a word that matches a row has that row's opcode. -/
theorem matchOf_eq_of_row {w : CmdWord} {i : Instr} (h : w &&& maskOf i = matchOf i) :
    matchOf i = w &&& 0xF000#16 := by
  have hmatch : matchOf i &&& 0xF000#16 = matchOf i := by cases i <;> simp only [matchOf] <;> decide
  have hmask : maskOf i &&& 0xF000#16 = 0xF000#16 := by cases i <;> simp only [maskOf] <;> decide
  rw [← hmatch, ← h, BitVec.and_assoc, hmask]

/-- A word that matches no row is invalid. -/
theorem invalid_of_no_row {w : CmdWord} (h : ∀ i : Instr, w &&& maskOf i ≠ matchOf i) : validWord w = false := by
  by_contra hw
  obtain ⟨i, rfl⟩ := (validWord_iff_encode w).1 (by simpa using hw)
  exact h i (encode_in_row i).1

/-- No row has bit 15 set, so a word with bit 15 set matches none. -/
theorem no_row_of_bit15 {w : CmdWord} (h : w &&& 0x8000#16 = 0x8000#16) (i : Instr) : w &&& maskOf i ≠ matchOf i := by
  intro hrow
  have hbit : matchOf i &&& 0x8000#16 = 0x0000#16 := by cases i <;> simp only [matchOf] <;> decide
  rw [matchOf_eq_of_row hrow, BitVec.and_assoc, show 0xF000#16 &&& 0x8000#16 = 0x8000#16 from by decide, h] at hbit
  exact absurd hbit (by decide)

/-- Settles O3, by the words of the rows and the opcode every row fixes. -/
theorem opcodeMapRowsDecide : Obligations.OpcodeMapRowsDecide := by
  unfold Obligations.OpcodeMapRowsDecide
  exact ⟨encodedAs_of_encode (by decide), encodedAs_of_encode (by decide),
    encodedWithData_of_encode encode_keyb (by decide), encodedWithData_of_encode encode_ivb (by decide),
    encodedAs_of_encode (by decide), encodedAs_of_encode (by decide), encodedAs_of_encode (by decide),
    encodedWithData_of_encode encode_xorb (by decide),
    fun w i j hi hj => (matchOf_eq_of_row hi).trans (matchOf_eq_of_row hj).symm,
    fun w hw => invalid_of_no_row (no_row_of_bit15 hw), fun w hw => invalid_of_no_row hw⟩

/-! ### The response word -/

/-- A command that takes no keystream returns no data (R91). -/
theorem exec_noKeystream_data {i : Instr} {s t : State} (hi : takesKeystream i = false) (h : exec i s = .next t) :
    rspData t.rsp = 0x00#8 := by
  cases i with
  | nop | clr | keyb | ivb => cases h; exact rspWord_data _ _ _
  | init =>
    rcases exec_init_cases s with ⟨-, e⟩ | ⟨-, -, e⟩ | ⟨-, -, e⟩ <;> rw [e] at h <;> cases h <;>
      exact rspWord_data _ _ _
  | stepb | ksb | xorb => cases hi

/-- Settles O5, by what each command answers, and by BAD_CMD where the word is none. -/
theorem responseWordFormat : Obligations.ResponseWordFormat := by
  unfold Obligations.ResponseWordFormat
  intro s ha
  cases hd : decode s.pinsNow.cmd with
  | ok i =>
    obtain ⟨t, code, data, ht, hrsp, -, -, -, herr⟩ := exec_next i s.popPins
    rw [encode_of_decode hd] at hrsp
    refine ⟨t, code.bits, data, (step_accept_ok ha hd).trans ht, hrsp, fun hc => ?_, fun j hj hk => ?_⟩
    · exact (herr (mt code.bits_eq_zero.2 hc)).1
    · obtain rfl := Except.ok.inj hj
      rw [← exec_noKeystream_data hk ht, hrsp, rspWord_data]
  | error e =>
    exact ⟨_, RespCode.badCmd.bits, 0x00#8, step_accept_error ha hd, rfl, fun _ => rfl, fun _ _ _ => rfl⟩

end Sys2Proof.Proofs
end

section
/-! PROOFS. The pseudo-instructions (spec/30_encoding.md R97): their expansions, and a run of ENGINE from counts 0. -/

namespace Sys2Proof.Proofs

open Sys2Proof.Machine Sys2Proof.Claims

/-! ### Lists of commands run one after the other -/

theorem execAll_append {is : List Instr} {s t : State} (h : execAll is s = some t) (js : List Instr) :
    execAll (is ++ js) s = execAll js t := by
  induction is generalizing s with
  | nil => exact congrArg (execAll js) (Option.some.inj h)
  | cons i is ih =>
    obtain ⟨u, -, -, hu, -⟩ := exec_next i s
    rw [execAll_cons hu] at h
    rw [List.cons_append, execAll_cons hu, ih h]

theorem responsesOf_cons {i : Instr} {s t : State} (h : exec i s = .next t) (is : List Instr) :
    responsesOf (i :: is) s = t.rsp :: responsesOf is t := by
  rw [responsesOf, h]

theorem responsesOf_append {is : List Instr} {s t : State} (h : execAll is s = some t) (js : List Instr) :
    responsesOf (is ++ js) s = responsesOf is s ++ responsesOf js t := by
  induction is generalizing s with
  | nil => exact congrArg (responsesOf js) (Option.some.inj h)
  | cons i is ih =>
    obtain ⟨u, -, -, hu, -⟩ := exec_next i s
    rw [execAll_cons hu] at h
    rw [List.cons_append, responsesOf_cons hu, responsesOf_cons hu, ih h, List.cons_append]

/-! ### Loading a key or an IV -/

/-- A command that always answers the word `r` answers it each time. -/
theorem responsesOf_map {f : Byte → Instr} {r : RspWord} (hf : ∀ d s, ∃ t, exec (f d) s = .next t ∧ t.rsp = r)
    (ds : List Byte) (s : State) : responsesOf (ds.map f) s = List.replicate ds.length r := by
  induction ds generalizing s with
  | nil => rfl
  | cons d ds ih =>
    obtain ⟨t, ht, hr⟩ := hf d s
    rw [List.map_cons, responsesOf_cons ht, hr, ih, List.length_cons, List.replicate_succ]

/-- The response word of a row that takes data does not depend on D. -/
theorem rspWord_append (op rsv : BitVec 4) (d : Byte) (code : RespCode) (data : Byte) :
    rspWord (op ++ rsv ++ d) code data = op ++ 0#1 ++ code.bits ++ data := by
  rw [rspWord, opField_append]

theorem exec_keyb_rsp (d : Byte) (s : State) : ∃ t, exec (.keyb d) s = .next t ∧ t.rsp = 0x2000#16 := by
  refine ⟨_, exec_keyb d s, ?_⟩
  rw [respond_rsp, encode_keyb]
  exact (rspWord_append 0x2#4 0x0#4 d .ok 0x00#8).trans (by decide)

theorem exec_ivb_rsp (d : Byte) (s : State) : ∃ t, exec (.ivb d) s = .next t ∧ t.rsp = 0x3000#16 := by
  refine ⟨_, exec_ivb d s, ?_⟩
  rw [respond_rsp, encode_ivb]
  exact (rspWord_append 0x3#4 0x0#4 d .ok 0x00#8).trans (by decide)

/-- Staging the 80 bytes of a vector from count 0 fills the buffer with it. -/
theorem stageAll_vector (v buf : Vector Byte 80) : stageAll v.toList buf 0#7 = (v, 80#7) := by
  apply Prod.ext
  · apply Vector.ext
    intro j hj
    simpa [hj] using stageAll_entry v.toList buf 0#7 ⟨j, hj⟩
  · apply BitVec.eq_of_toNat_eq
    simp [stageAll_count]

/-! ### ENGINE -/

/-- The loading commands of ENGINE k, v. -/
def engineLoad (k v : Vector Byte 80) : List Instr := k.toList.map .keyb ++ v.toList.map .ivb

theorem expandPseudo_engine (k v : Vector Byte 80) : expandPseudo (.engine k v) = engineLoad k v ++ [.init] := rfl

theorem engineLoad_loads (k v : Vector Byte 80) : ∀ i ∈ engineLoad k v, ∃ d, i = .keyb d ∨ i = .ivb d := by
  intro i hi
  rcases List.mem_append.1 hi with hk | hv
  · obtain ⟨d, -, rfl⟩ := List.mem_map.1 hk
    exact ⟨d, .inl rfl⟩
  · obtain ⟨d, -, rfl⟩ := List.mem_map.1 hv
    exact ⟨d, .inr rfl⟩

theorem keyBytes_engineLoad (k v : Vector Byte 80) : keyBytes (engineLoad k v) = k.toList := by
  simp [keyBytes, engineLoad, List.filterMap_map, Function.comp_def, keyData]

theorem ivBytes_engineLoad (k v : Vector Byte 80) : ivBytes (engineLoad k v) = v.toList := by
  simp [ivBytes, engineLoad, List.filterMap_map, Function.comp_def, ivData]

/-- The loading commands of ENGINE, from counts 0, leave the buffers full of key and IV. -/
theorem execAll_engineLoad (k v : Vector Byte 80) {s : State} (hk : s.kcnt = 0#7) (hi : s.icnt = 0#7) :
    ∃ t : State, execAll (engineLoad k v) s = some t ∧ t.kbuf = k ∧ t.kcnt = 80#7 ∧ t.ibuf = v ∧ t.icnt = 80#7 ∧
      t.markers = s.markers := by
  obtain ⟨r, b, h⟩ := execAll_load (engineLoad_loads k v) s
  rw [keyBytes_engineLoad, ivBytes_engineLoad, hk, hi, stageAll_vector, stageAll_vector] at h
  exact ⟨_, h, rfl, rfl, rfl, rfl, rfl⟩

theorem responsesOf_engineLoad (k v : Vector Byte 80) (s : State) :
    responsesOf (engineLoad k v) s = List.replicate 80 0x2000#16 ++ List.replicate 80 0x3000#16 := by
  obtain ⟨r, b, h⟩ := execAll_load (is := k.toList.map .keyb) (by simp) s
  rw [engineLoad, responsesOf_append h, responsesOf_map exec_keyb_rsp, responsesOf_map exec_ivb_rsp,
    Vector.length_toList, Vector.length_toList]

/-- ENGINE from counts 0 constructs the engine of its key and IV and answers OK 161 times. -/
theorem execAll_engine (k v : Vector Byte 80) {s : State} (hk : s.kcnt = 0#7) (hi : s.icnt = 0#7) :
    ∃ t : State, execAll (expandPseudo (.engine k v)) s = some t ∧ t.phase = .warmup ∧ t.wcnt = 0#11 ∧
      t.cells = loadCells k v s.markers ∧ responsesOf (expandPseudo (.engine k v)) s = engineResponses := by
  obtain ⟨u, hu, rfl, huk, rfl, hui, hm⟩ := execAll_engineLoad k v hk hi
  have hinit := exec_init_ok huk hui
  rw [expandPseudo_engine, execAll_append hu, responsesOf_append hu, execAll_cons hinit, responsesOf_cons hinit,
    responsesOf_engineLoad, ← hm]
  exact ⟨_, rfl, rfl, rfl, rfl, rfl⟩

/-- Settles O54, by the expansions as maps over their operands and the run of ENGINE. -/
theorem pseudoInstructionsExpand : Obligations.PseudoInstructionsExpand := by
  unfold Obligations.PseudoInstructionsExpand
  refine ⟨fun k => ⟨by simp [expandPseudo], fun j => by simp [expandPseudo]⟩,
    fun v => ⟨by simp [expandPseudo], fun j => by simp [expandPseudo]⟩, fun k v => rfl,
    fun ds => ⟨by simp [expandPseudo], fun j => by simp [expandPseudo], rfl⟩, fun n => rfl, ?_, ?_,
    fun k v s hk hi => execAll_engine k v hk hi⟩
  · simp [expandPseudo, zeros]
  · simp [expandPseudo, zeros]

end Sys2Proof.Proofs
end

section
/-! SUPPORT. The parts of a source line (spec/30_encoding.md R96, log entry 16): how a line falls into words, and
what digits and operands denote. -/

namespace Sys2Proof.Proofs

open Sys2Proof.Machine Sys2Proof.Claims

/-! ### The words of a line -/

/-- A blank or the start of a comment: what ends a word. -/
def endsWord (c : Char) : Bool := isBlank c || c = ';'

/-- A rest of a line that is empty or begins with a character that ends a word. -/
def Separated (rest : List Char) : Prop := ∀ c ∈ rest.head?, endsWord c = true

theorem endsWord_iff (c : Char) : endsWord c = true ↔ (c = ' ' ∨ c = '\t') ∨ c = ';' := by
  simp [endsWord, isBlank]

theorem not_blank_of_not_endsWord {c : Char} (h : endsWord c = false) : isBlank c = false :=
  (Bool.or_eq_false_iff.1 h).1

theorem skipBlanks_blank {b : Char} (hb : isBlank b = true) (cs : List Char) :
    skipBlanks (b :: cs) = skipBlanks cs := by
  simp [skipBlanks, hb]

theorem skipBlanks_of_not_blank {c : Char} (hc : isBlank c = false) (cs : List Char) :
    skipBlanks (c :: cs) = c :: cs := by
  simp [skipBlanks, hc]

theorem takeWord_append {ws rest : List Char} (hws : ∀ c ∈ ws, endsWord c = false) (hrest : Separated rest) :
    takeWord (ws ++ rest) = (ws, rest) := by
  induction ws with
  | nil =>
    cases rest with
    | nil => rfl
    | cons c cs =>
      have hc : endsWord c = true := hrest c rfl
      rw [endsWord] at hc
      simp [takeWord, hc]
  | cons c ws ih =>
    obtain ⟨hc, hws⟩ := List.forall_mem_cons.1 hws
    rw [endsWord] at hc
    simp [takeWord, hc, ih hws]

/-- A rest that ends the line is separated from the word before it. -/
theorem separated_of_endsLine {rest : List Char} (h : endsLine rest = true) : Separated rest := by
  cases rest with
  | nil => simp [Separated]
  | cons c cs =>
    intro d hd
    obtain rfl : c = d := by simpa using hd
    by_cases hc : isBlank c = true
    · simp [endsWord, hc]
    · simpa [endsLine, skipBlanks, hc, endsWord] using h

/-! ### Digits -/

theorem digitValue_digitChar : ∀ d < 16, digitValue d.digitChar = some d := by decide

theorem digitValue_toUpper_digitChar : ∀ d < 16, digitValue d.digitChar.toUpper = some d := by decide

/-- No digit is a blank or a semicolon. -/
theorem endsWord_of_digit {c : Char} {v : Nat} (h : digitValue c = some v) : endsWord c = false := by
  by_contra hc
  obtain (rfl | rfl) | rfl := (endsWord_iff c).1 (by simpa using hc) <;> exact absurd h (by simp [digitValue])

theorem readDigits_append {base n m : Nat} {cs : List Char} (h : readDigits base n cs = some m) (ds : List Char) :
    readDigits base n (cs ++ ds) = readDigits base m ds := by
  induction cs generalizing n with
  | nil => exact congrArg (readDigits base · ds) (Option.some.inj h)
  | cons c cs ih =>
    rw [readDigits] at h
    rw [List.cons_append, readDigits]
    split at h
    · split_ifs at h with hv
      rw [if_pos hv, ih h]
    · cases h

theorem readDigits_digit {base n v : Nat} {c : Char} (hc : digitValue c = some v) (hv : v < base) :
    readDigits base n [c] = some (n * base + v) := by
  simp [readDigits, hc, hv]

/-- Every base up to 16 reads back the digits it writes. -/
theorem readDigits_toDigits {base : Nat} (hlow : 1 < base) (hhigh : base ≤ 16) (n : Nat) :
    readDigits base 0 (Nat.toDigits base n) = some n := by
  induction n using Nat.strong_induction_on with
  | _ n ih =>
    rw [Nat.toDigits_eq_if hlow]
    split_ifs with hn
    · simpa using readDigits_digit (n := 0) (digitValue_digitChar n (by omega)) hn
    · have hmod : n % base < base := Nat.mod_lt n (by omega)
      rw [readDigits_append (ih (n / base) (Nat.div_lt_self (by omega) hlow)),
        readDigits_digit (digitValue_digitChar _ (by omega)) hmod, Nat.div_add_mod']

theorem readDigits_twoHexDigits {n : Nat} (hn : n < 256) : readDigits 16 0 (twoHexDigits n) = some n := by
  have hdiv := digitValue_toUpper_digitChar (n / 16) (by omega)
  have hmod := digitValue_toUpper_digitChar (n % 16) (by omega)
  have h1 : n / 16 < 16 := by omega
  have h2 : n % 16 < 16 := by omega
  simp [twoHexDigits, readDigits, hdiv, hmod, h1, h2, Nat.div_add_mod']

/-- All characters of a number read are digits. -/
theorem digits_of_readDigits {base n m : Nat} {cs : List Char} (h : readDigits base n cs = some m) :
    ∀ c ∈ cs, ∃ v, digitValue c = some v := by
  induction cs generalizing n with
  | nil => simp
  | cons c cs ih =>
    rw [readDigits] at h
    split at h
    next v hv =>
      split_ifs at h
      exact List.forall_mem_cons.2 ⟨⟨v, hv⟩, ih h⟩
    next => cases h

/-! ### Numbers and operands -/

/-- Digits alone are a decimal number: `0x` is not among them. -/
theorem readNumber_decimal {cs : List Char} {n : Nat} (hcs : cs ≠ []) (h : readDigits 10 0 cs = some n) :
    readNumber cs = some n := by
  have hx : 'x' ∉ cs := fun hx => by
    obtain ⟨v, hv⟩ := digits_of_readDigits h 'x' hx
    exact absurd hv (by simp [digitValue])
  unfold readNumber
  split
  · exact absurd rfl hcs
  · simp at hx
  · simp at hx
  · exact h

theorem readNumber_hex {cs : List Char} (hcs : cs ≠ []) : readNumber ('0' :: 'x' :: cs) = readDigits 16 0 cs := by
  cases cs with
  | nil => exact absurd rfl hcs
  | cons c cs => rfl

/-- A word that opens no character literal is read as a number. -/
theorem readOperand_word {c : Char} {ws rest : List Char} (hq : c ≠ quoteChar)
    (hws : ∀ d ∈ c :: ws, endsWord d = false) (hrest : Separated rest) :
    readOperand (c :: (ws ++ rest)) = (readNumber (c :: ws)).map fun n => (n, rest) := by
  have hword : takeWord (c :: (ws ++ rest)) = (c :: ws, rest) := takeWord_append hws hrest
  unfold readOperand
  split
  next q d q' tail hcs =>
    obtain rfl : c = q := (List.cons.inj hcs).1
    simp only [hq, decide_false, Bool.false_and, Bool.false_eq_true, if_false, hword]
  next => rw [hword]

theorem readOperand_literal (c : Char) (rest : List Char) :
    readOperand (quoteChar :: c :: quoteChar :: rest) = some (c.toNat, rest) := by
  simp [readOperand]

/-- A number after one blank, at the end of its line. -/
theorem lineOperand_word {bound n : Nat} {c : Char} {ws rest : List Char} (hq : c ≠ quoteChar)
    (hws : ∀ d ∈ c :: ws, endsWord d = false) (hn : readNumber (c :: ws) = some n) (hend : endsLine rest = true) :
    lineOperand bound (' ' :: c :: (ws ++ rest)) = if n ≤ bound then some n else none := by
  have hblank : isBlank c = false := not_blank_of_not_endsWord (hws c (List.mem_cons_self ..))
  rw [lineOperand, skipBlanks_blank rfl, skipBlanks_of_not_blank hblank,
    readOperand_word hq hws (separated_of_endsLine hend), hn]
  simp [hend]

theorem lineOperand_decimal {bound n : Nat} {ws rest : List Char} (hne : ws ≠ []) (hn : readDigits 10 0 ws = some n)
    (hend : endsLine rest = true) :
    lineOperand bound (' ' :: (ws ++ rest)) = if n ≤ bound then some n else none := by
  have hdigit := digits_of_readDigits hn
  have hnum := readNumber_decimal hne hn
  cases ws with
  | nil => exact absurd rfl hne
  | cons c ws =>
    refine lineOperand_word (fun hq => ?_) (fun d hd => ?_) hnum hend
    · obtain ⟨v, hv⟩ := hdigit c (List.mem_cons_self ..)
      exact absurd hv (by simp [hq, digitValue, quoteChar])
    · obtain ⟨v, hv⟩ := hdigit d hd
      exact endsWord_of_digit hv

theorem lineOperand_hex {bound n : Nat} {ws rest : List Char} (hne : ws ≠ []) (hn : readDigits 16 0 ws = some n)
    (hend : endsLine rest = true) :
    lineOperand bound (' ' :: '0' :: 'x' :: (ws ++ rest)) = if n ≤ bound then some n else none := by
  refine lineOperand_word (ws := 'x' :: ws) (by decide) (fun d hd => ?_) ((readNumber_hex hne).trans hn) hend
  obtain rfl | rfl | hd : d = '0' ∨ d = 'x' ∨ d ∈ ws := by simpa using hd
  · rfl
  · rfl
  · obtain ⟨v, hv⟩ := digits_of_readDigits hn d hd
    exact endsWord_of_digit hv

theorem lineOperand_literal {bound : Nat} (c : Char) {rest : List Char} (hend : endsLine rest = true) :
    lineOperand bound (' ' :: quoteChar :: c :: quoteChar :: rest) =
      if c.toNat ≤ bound then some c.toNat else none := by
  rw [lineOperand, skipBlanks_blank rfl, skipBlanks_of_not_blank rfl, readOperand_literal]
  simp [hend]

end Sys2Proof.Proofs
end

section
/-! PROOFS. What a source line assembles to, form by form (spec/30_encoding.md R96, log entry 16). -/

namespace Sys2Proof.Proofs

open Sys2Proof.Machine Sys2Proof.Claims

/-! ### Lines -/

/-- The first word of a line, and the rest. -/
theorem line_words {ws rest : List Char} (hne : ws ≠ []) (hws : ∀ c ∈ ws, endsWord c = false) (hrest : Separated rest) :
    takeWord (skipBlanks (ws ++ rest)) = (ws, rest) := by
  cases ws with
  | nil => exact absurd rfl hne
  | cons c ws =>
    rw [List.cons_append, skipBlanks_of_not_blank (not_blank_of_not_endsWord (hws c (List.mem_cons_self ..)))]
    exact takeWord_append hws hrest

/-- A mnemonic: a word that is not `.word`. -/
def IsMnemonic (ws : List Char) : Prop :=
  ws ≠ [] ∧ ws ≠ ['.', 'w', 'o', 'r', 'd'] ∧ ∀ c ∈ ws, endsWord c = false

theorem isMnemonic_plain : ∀ m ∈ plainMnemonics, IsMnemonic m.1 := by
  simp [plainMnemonics, IsMnemonic, endsWord, isBlank]

theorem isMnemonic_data : ∀ m ∈ dataMnemonics, IsMnemonic m.1 := by
  simp [dataMnemonics, IsMnemonic, endsWord, isBlank]

theorem lookup_plain : ∀ m ∈ plainMnemonics, plainMnemonics.lookup m.1 = some m.2 := by decide

theorem lookup_data : ∀ m ∈ dataMnemonics,
    plainMnemonics.lookup m.1 = none ∧ dataMnemonics.lookup m.1 = some m.2 := by
  simp only [dataMnemonics, List.forall_mem_cons]
  exact ⟨⟨rfl, rfl⟩, ⟨rfl, rfl⟩, ⟨rfl, rfl⟩, by simp⟩

/-- A mnemonic without operand, at the end of its line. -/
theorem assembleLine_plain {m : List Char × Instr} (hm : m ∈ plainMnemonics) {rest : List Char}
    (hend : endsLine rest = true) : assembleLine (m.1 ++ rest) = some (some (encode m.2)) := by
  obtain ⟨hne, hdot, hword⟩ := isMnemonic_plain m hm
  simp [assembleLine, line_words hne hword (separated_of_endsLine hend), hne, hdot, lookup_plain m hm, hend]

/-- A mnemonic with operand takes what the rest of its line denotes, up to 0xFF. -/
theorem assembleLine_data {m : List Char × (Byte → Instr)} (hm : m ∈ dataMnemonics) (cs : List Char) :
    assembleLine (m.1 ++ ' ' :: cs) =
      (lineOperand 0xFF (' ' :: cs)).map fun n => some (encode (m.2 (BitVec.ofNat 8 n))) := by
  obtain ⟨hne, hdot, hword⟩ := isMnemonic_data m hm
  obtain ⟨hplain, hdata⟩ := lookup_data m hm
  have hrest : Separated (' ' :: cs) := by simp [Separated, endsWord, isBlank]
  simp [assembleLine, line_words hne hword hrest, hne, hdot, hplain, hdata]

/-- A line that writes a word is a `.word` line or writes the word of a command. -/
theorem assembleLine_word_cases {line : List Char} {w : CmdWord} (h : assembleLine line = some (some w)) :
    (takeWord (skipBlanks line)).1 = ['.', 'w', 'o', 'r', 'd'] ∨ ∃ i, encode i = w := by
  simp only [assembleLine] at h
  split at h
  · split at h <;> cases h
  split at h
  next hdot => exact .inl hdot
  split at h
  next i _ =>
    split at h
    · exact .inr ⟨i, Option.some.inj (Option.some.inj h)⟩
    · cases h
  next =>
    split at h
    next f _ =>
      obtain ⟨n, -, hn⟩ := Option.map_eq_some_iff.1 h
      exact .inr ⟨_, Option.some.inj hn⟩
    next => cases h

/-! ### The forms of a line with operand -/

section
variable {m : List Char × (Byte → Instr)} (hm : m ∈ dataMnemonics) {n : Nat} (hn : n ≤ 0xFF)
include hm hn

theorem assembleLine_decimal {rest : List Char} (hend : endsLine rest = true) :
    assembleLine (m.1 ++ ' ' :: (Nat.toDigits 10 n ++ rest)) = some (some (encode (m.2 (BitVec.ofNat 8 n)))) := by
  rw [assembleLine_data hm,
    lineOperand_decimal Nat.toDigits_ne_nil (readDigits_toDigits (by decide) (by decide) n) hend, if_pos hn]
  rfl

theorem assembleLine_hex {ws : List Char} (hne : ws ≠ []) (hws : readDigits 16 0 ws = some n) :
    assembleLine (m.1 ++ [' ', '0', 'x'] ++ ws) = some (some (encode (m.2 (BitVec.ofNat 8 n)))) := by
  have hop := lineOperand_hex (bound := 0xFF) (rest := []) hne hws rfl
  rw [List.append_nil, if_pos hn] at hop
  rw [List.append_assoc]
  change assembleLine (m.1 ++ ' ' :: '0' :: 'x' :: ws) = _
  rw [assembleLine_data hm, hop]
  rfl

theorem assembleLine_literal :
    assembleLine (m.1 ++ [' ', quoteChar, Char.ofNat n, quoteChar]) =
      some (some (encode (m.2 (BitVec.ofNat 8 n)))) := by
  have hc : (Char.ofNat n).toNat = n := by
    rw [Char.toNat_ofNat, if_pos (.inl (by omega))]
  rw [assembleLine_data hm, lineOperand_literal _ rfl, hc, if_pos hn]
  rfl

end

/-! ### The two statements -/

/-- A row's match word is its opcode above twelve zeros. -/
theorem matchOf_shift (i : Instr) : (matchOf i >>> 12) <<< 12 = matchOf i := by
  cases i <;> simp only [matchOf] <;> decide

/-- Settles O53, by the forms of a line; a line of another form than `.word` writes a command's word, which is valid. -/
theorem assemblerNotation : Obligations.AssemblerNotation := by
  unfold Obligations.AssemblerNotation
  refine ⟨fun i => by rw [matchOf_shift, encode], by decide, by decide, by decide, by decide, by decide,
    fun n m hm => ⟨?_, ?_, fun _ _ _ _ => ?_⟩, fun cs => ⟨fun m hm => ?_, fun m hm => ?_⟩, fun line w hline hw => ?_,
    by decide, by decide, by decide, by decide⟩
  · simpa using assembleLine_decimal hm (n := n) (by omega) (rest := []) rfl
  · exact assembleLine_hex hm (by omega) (by simp [twoHexDigits]) (readDigits_twoHexDigits n.isLt)
  · exact assembleLine_literal hm (by omega)
  · rw [List.append_assoc]
    exact assembleLine_plain hm rfl
  · rw [List.append_assoc]
    exact assembleLine_decimal hm (n := 58) (by decide) (rest := ' ' :: ';' :: cs) rfl
  · refine (assembleLine_word_cases hline).resolve_right fun ⟨i, hi⟩ => ?_
    rw [← hi, (encode_in_row i).2] at hw
    cases hw

/-- Settles O58, by the same forms at every code and in small digits. -/
theorem assemblerNotationChoices : Obligations.AssemblerNotationChoices := by
  unfold Obligations.AssemblerNotationChoices
  refine ⟨fun n m hm => ⟨?_, assembleLine_literal hm (by omega)⟩, fun cs => ⟨rfl, fun m hm => ?_⟩,
    fun b line hb => ?_, rfl, fun m hm => ?_, by decide⟩
  · exact assembleLine_hex hm (by omega) Nat.toDigits_ne_nil (readDigits_toDigits (by decide) (by decide) n)
  · rw [List.append_assoc]
    exact assembleLine_plain hm rfl
  · rw [assembleLine, assembleLine, skipBlanks_blank hb]
  · rw [assembleLine_data hm, show lineOperand 0xFF [' ', '2', '5', '6'] = none from by decide]
    rfl

end Sys2Proof.Proofs
end

section
/-! SUPPORT. When a word is accepted and which words of an opcode without operand are invalid (spec/20_memory.md R72,
spec/30_encoding.md R94); what KEYB and IVB answer, what a keystream command writes, and which commands lower a count
(spec/40_loader.md R110, R111). -/

namespace Sys2Proof.Proofs

open Sys2Proof.Machine Sys2Proof.Claims

/-! ### Acceptance and invalid words -/

/-- Every word, offered without reset, is accepted in EMPTY and READY and in no other phase (R72). -/
theorem acceptedInEmptyAndReady (w : CmdWord) : AcceptedInEmptyAndReady w := by
  intro s hs
  have hready : s.phase ≠ .warmup ↔ s.phase = .empty ∨ s.phase = .ready := by cases s.phase <;> decide
  rw [accepts_iff, hs, ← hready]
  exact ⟨fun ⟨_, _, hp⟩ => hp, fun hp => ⟨rfl, rfl, hp⟩⟩

/-- Of an opcode that takes no data, every word but the one with RSV = 0 and D = 0 is invalid (R94, R205). -/
theorem otherwiseBadCmd_of_plain {op : BitVec 4} (hop : op ∉ [0x2#4, 0x3#4, 0x7#4]) :
    OtherwiseBadCmd op (op ++ 0x0#4 ++ 0x00#8) := by
  intro w hw hne
  apply failsAsBadCmd_of_invalid
  by_contra hvalid
  obtain ⟨-, hrsv, hdata⟩ := (validWord_iff w).1 (by simpa using hvalid)
  obtain rfl : opField w = op := hw
  exact hne (by rw [← hrsv, ← hdata.resolve_left hop, append_fields])

/-! ### KEYB and IVB -/

/-- KEYB stages the byte and answers OK; nothing else changes (R110). -/
theorem exec_keyb_answer (d : Byte) (s : State) :
    exec (.keyb d) s = .next { s with
      kbuf := (stageByte s.kbuf s.kcnt d).1, kcnt := (stageByte s.kbuf s.kcnt d).2,
      rsp := 0x2000#16, rspV := true } := by
  obtain ⟨t, ht, hrsp⟩ := exec_keyb_rsp d s
  rw [ht, ← hrsp]
  cases ht
  rfl

/-- IVB stages the byte and answers OK; nothing else changes (R111). -/
theorem exec_ivb_answer (d : Byte) (s : State) :
    exec (.ivb d) s = .next { s with
      ibuf := (stageByte s.ibuf s.icnt d).1, icnt := (stageByte s.ibuf s.icnt d).2,
      rsp := 0x3000#16, rspV := true } := by
  obtain ⟨t, ht, hrsp⟩ := exec_ivb_rsp d s
  rw [ht, ← hrsp]
  cases ht
  rfl

/-- Staging as R110 and R111 say it: below 80 the byte lands at the count, which rises by one. -/
theorem stageByte_below {buf : Vector Byte 80} {cnt : ByteCount} (d : Byte) (h : cnt.toNat < 80) :
    (stageByte buf cnt d).2.toNat = cnt.toNat + 1 ∧
      ∀ j : Fin 80, (stageByte buf cnt d).1[j] = if j.val = cnt.toNat then d else buf[j] := by
  refine ⟨by rw [stageByte_count, if_pos h], fun j => ?_⟩
  rw [stageByte_entry]
  exact if_congr eq_comm rfl rfl

/-! ### The keystream commands -/

/-- A keystream command writes the cells and its response, and LAST_ERR only outside READY (R146, R147, R170). -/
theorem exec_keystream_frame {i : Instr} {s t : State} (hi : takesKeystream i = true) (h : exec i s = .next t) :
    t = { s with cells := t.cells, rsp := t.rsp, rspV := t.rspV, lastErr := t.lastErr } ∧
      (s.phase = .ready → t.lastErr = s.lastErr) := by
  rcases exec_keystream_cases hi s with ⟨hp, e⟩ | ⟨-, data, e⟩ <;> rw [e] at h <;> cases h
  · exact ⟨rfl, fun hready => absurd hready hp⟩
  · exact ⟨rfl, fun _ => rfl⟩

/-! ### Which commands lower a count -/

/-- Staging lowers no count that is in range. -/
theorem le_stageByte_count (buf : Vector Byte 80) {cnt : ByteCount} (d : Byte) (h : cnt.toNat ≤ 81) :
    cnt.toNat ≤ (stageByte buf cnt d).2.toNat := by
  rw [stageByte_count]
  split_ifs <;> omega

/-- A command other than INIT and CLR lowers no count that is in range (R110, R111). -/
theorem exec_le_counts {i : Instr} {s t : State} (hinit : i ≠ .init) (hclr : i ≠ .clr) (h : exec i s = .next t) :
    (s.kcnt.toNat ≤ 81 → s.kcnt.toNat ≤ t.kcnt.toNat) ∧ (s.icnt.toNat ≤ 81 → s.icnt.toNat ≤ t.icnt.toNat) := by
  cases i with
  | nop => cases h; exact ⟨fun _ => le_rfl, fun _ => le_rfl⟩
  | clr => exact absurd rfl hclr
  | keyb d => cases h; exact ⟨le_stageByte_count s.kbuf d, fun _ => le_rfl⟩
  | ivb d => cases h; exact ⟨fun _ => le_rfl, le_stageByte_count s.ibuf d⟩
  | init => exact absurd rfl hinit
  | stepb | ksb | xorb =>
    rw [(exec_keystream_frame rfl h).1]
    exact ⟨fun _ => le_rfl, fun _ => le_rfl⟩

/-- A command that lowers a count in range is INIT or CLR. -/
theorem exec_lowers_count {i : Instr} {s t : State} (h : exec i s = .next t)
    (hlow : (s.kcnt.toNat ≤ 81 ∧ t.kcnt.toNat < s.kcnt.toNat) ∨ (s.icnt.toNat ≤ 81 ∧ t.icnt.toNat < s.icnt.toNat)) :
    i = .init ∨ i = .clr := by
  by_contra hi
  obtain ⟨hinit, hclr⟩ := not_or.1 hi
  obtain ⟨hk, hv⟩ := exec_le_counts hinit hclr h
  rcases hlow with ⟨hr, hlt⟩ | ⟨hr, hlt⟩
  · exact absurd (hk hr) (not_le.2 hlt)
  · exact absurd (hv hr) (not_le.2 hlt)

end Sys2Proof.Proofs
end

section
/-! PROOFS. The upper bits of the staged bytes (spec/40_loader.md R112): bits 7 to 1 of the buffers go nowhere but into
the buffers, so two states that differ only there still do so after every command and every edge. -/

namespace Sys2Proof.Proofs

open Sys2Proof.Machine Sys2Proof.Claims

/-! ### Buffers that agree in bit 0 -/

/-- Two buffers agree in bit 0 of every entry, the one bit that INIT loads (R112). -/
def SameLowBits (b b' : Vector Byte 80) : Prop := ∀ j : Fin 80, b[j].getLsbD 0 = b'[j].getLsbD 0

/-- Staging one byte into both keeps the agreement. -/
theorem SameLowBits.stageByte {b b' : Vector Byte 80} (h : SameLowBits b b') (cnt : ByteCount) (d : Byte) :
    SameLowBits (stageByte b cnt d).1 (stageByte b' cnt d).1 := by
  intro j
  rw [stageByte_entry, stageByte_entry]
  split_ifs
  · rfl
  · exact h j

/-- INIT loads the same cells from both. -/
theorem SameLowBits.loadCells_eq {k k' v v' : Vector Byte 80} (hk : SameLowBits k k') (hv : SameLowBits v v')
    (m : Config.MarkerCells) : loadCells k v m = loadCells k' v' m :=
  loadCells_congr m hk hv

/-! ### States that differ only in the upper bits -/

/-- `s'` is `s` but for bits 7 to 1 of the staged bytes. -/
def SameButUpperBits (s s' : State) : Prop :=
  ∃ k v : Vector Byte 80, SameLowBits k s.kbuf ∧ SameLowBits v s.ibuf ∧ s' = { s with kbuf := k, ibuf := v }

theorem SameButUpperBits.refl (s : State) : SameButUpperBits s s :=
  ⟨s.kbuf, s.ibuf, fun _ => rfl, fun _ => rfl, rfl⟩

/-- The ports show no buffer. -/
theorem SameButUpperBits.ports_eq {s s' : State} (h : SameButUpperBits s s') : s'.ports = s.ports := by
  obtain ⟨k, v, -, -, rfl⟩ := h
  rfl

theorem SameButUpperBits.popPins {s s' : State} (h : SameButUpperBits s s') :
    SameButUpperBits s.popPins s'.popPins := by
  obtain ⟨k, v, hk, hv, rfl⟩ := h
  exact ⟨k, v, hk, hv, rfl⟩

/-- A command answers states that differ only in the upper bits with such states. INIT is the one that reads the
buffers, and it reads bit 0. -/
theorem SameButUpperBits.exec {i : Instr} {s s' t : State} (hs : SameButUpperBits s s') (h : exec i s = .next t) :
    ∃ t', exec i s' = .next t' ∧ SameButUpperBits t t' := by
  obtain ⟨k, v, hk, hv, rfl⟩ := hs
  cases i with
  | nop => cases h; exact ⟨_, rfl, k, v, hk, hv, rfl⟩
  | clr => cases h; exact ⟨_, rfl, .refl _⟩
  | keyb d =>
    cases h
    refine ⟨_, exec_keyb d _, _, v, hk.stageByte s.kcnt d, hv, ?_⟩
    rw [stageByte_count_congr k s.kbuf]
    rfl
  | ivb d =>
    cases h
    refine ⟨_, exec_ivb d _, k, _, hk, hv.stageByte s.icnt d, ?_⟩
    rw [stageByte_count_congr v s.ibuf]
    rfl
  | init =>
    rcases exec_init_cases s with ⟨hkc, e⟩ | ⟨hkc, hvc, e⟩ | ⟨hkc, hvc, e⟩ <;> rw [e] at h <;> cases h
    · exact ⟨_, exec_init_key (s := { s with kbuf := k, ibuf := v }) hkc, .refl _⟩
    · exact ⟨_, exec_init_iv (s := { s with kbuf := k, ibuf := v }) hkc hvc, .refl _⟩
    · refine ⟨_, exec_init_ok (s := { s with kbuf := k, ibuf := v }) hkc hvc, ?_⟩
      rw [hk.loadCells_eq hv]
      exact .refl _
  | stepb | ksb | xorb =>
    have hframe := (exec_keystream_frame rfl h).1
    exact ⟨_, exec_keystream_withBuffers k v rfl h, k, v, by rwa [hframe], by rwa [hframe], rfl⟩

/-- The same of an edge: no other kind of edge reads the buffers. -/
theorem SameButUpperBits.step {s s' t : State} (hs : SameButUpperBits s s') (h : step s = .next t) :
    ∃ t', step s' = .next t' ∧ SameButUpperBits t t' := by
  have hpop := hs.popPins
  obtain ⟨k, v, hk, hv, rfl⟩ := hs
  rcases step_cases h with ⟨hr, rfl⟩ | ⟨hr, hp, rfl⟩ | ⟨ha, i, hd, hexec⟩ | ⟨ha, ⟨e, hd⟩, rfl⟩ | ⟨hr, hp, hval, rfl⟩
  · exact ⟨_, step_reset (s := { s with kbuf := k, ibuf := v }) hr, .refl _⟩
  · exact ⟨_, step_tick (s := { s with kbuf := k, ibuf := v }) hr hp, k, v, hk, hv, rfl⟩
  · obtain ⟨t', ht', hrel⟩ := hpop.exec hexec
    exact ⟨t', (step_accept_ok (s := { s with kbuf := k, ibuf := v }) ha hd).trans ht', hrel⟩
  · exact ⟨_, step_accept_error (s := { s with kbuf := k, ibuf := v }) ha hd, k, v, hk, hv, rfl⟩
  · exact ⟨_, step_idle (s := { s with kbuf := k, ibuf := v }) hr hp hval, k, v, hk, hv, rfl⟩

/-! ### The ports along a run -/

theorem portTrace_succ {s t : State} (h : step s = .next t) (n : Nat) :
    portTrace (n + 1) s = t.ports :: portTrace n t := by
  rw [portTrace, h]

theorem SameButUpperBits.portTrace_eq {s s' : State} (h : SameButUpperBits s s') (n : Nat) :
    portTrace n s' = portTrace n s := by
  induction n generalizing s s' with
  | zero => rfl
  | succ n ih =>
    obtain ⟨t, ht⟩ := step_next s
    obtain ⟨t', ht', hrel⟩ := h.step ht
    rw [portTrace_succ ht, portTrace_succ ht', hrel.ports_eq, ih hrel]

/-- Settles O30, by induction on the run: every edge keeps the difference in the upper bits. -/
theorem upperKeyAndIvBitsNeverShow : Obligations.UpperKeyAndIvBitsNeverShow := by
  unfold Obligations.UpperKeyAndIvBitsNeverShow
  intro n s k v hlow
  exact SameButUpperBits.portTrace_eq ⟨k, v, fun j => (hlow j).1, fun j => (hlow j).2, rfl⟩ n

end Sys2Proof.Proofs
end

section
/-! PROOFS. KEYB and IVB (spec/40_loader.md R110, R111), and that only INIT, CLR and reset lower a count. -/

namespace Sys2Proof.Proofs

open Sys2Proof.Machine Sys2Proof.Claims

/-- Settles O22, by the answer of KEYB and the lemmas on staging. -/
theorem keybAppendsOneKeyByte : Obligations.KeybAppendsOneKeyByte := by
  unfold Obligations.KeybAppendsOneKeyByte
  refine ⟨encodedWithData_of_encode encode_keyb (by decide), fun d => acceptedInEmptyAndReady _, ?lowers, ?loaded,
    ?answer⟩
  case lowers => exact fun i s t hr h hlt => exec_lowers_count h (.inl ⟨hr, hlt⟩)
  case loaded => exact fun k k' v m hk => SameLowBits.loadCells_eq hk (fun _ => rfl) m
  case answer => exact fun d s => ⟨_, exec_keyb_answer d s, rfl, stageByte_below d,
    fun hfull => (Prod.ext_iff.1 (stageByte_ge d hfull)).symm, status_kcnt _⟩

/-- Two IV bytes staged from reset: the first one stands in entry 0 (R75). -/
theorem execAll_ivb_pair (d e : Byte) :
    ∃ t : State, execAll [.ivb d, .ivb e] State.reset = some t ∧ t.ibuf[0] = d := by
  obtain ⟨t, ht, -, -, -, -, hv⟩ := interleavedLoadKeepsEachOrder [.ivb d, .ivb e] State.reset (by simp) rfl rfl
  exact ⟨t, ht, hv 0⟩

/-- The order of two different IV bytes matters (R111). -/
theorem execAll_ivb_order {d e : Byte} (hne : d ≠ e) :
    execAll [.ivb d, .ivb e] State.reset ≠ execAll [.ivb e, .ivb d] State.reset := by
  obtain ⟨t, ht, hd⟩ := execAll_ivb_pair d e
  obtain ⟨u, hu, he⟩ := execAll_ivb_pair e d
  rw [ht, hu]
  rintro ⟨⟩
  exact hne (hd.symm.trans he)

/-- A key byte and an IV byte go into buffers of their own, so their order shows in RSP alone (R111). -/
theorem execAll_keyb_ivb_comm (d e : Byte) (s : State) :
    ∃ t u : State, execAll [.keyb d, .ivb e] s = some t ∧ execAll [.ivb e, .keyb d] s = some u ∧
      u = { t with rsp := u.rsp } := by
  rw [execAll_cons (exec_keyb_answer d s), execAll_cons (exec_ivb_answer e _), execAll_cons (exec_ivb_answer e s),
    execAll_cons (exec_keyb_answer d _)]
  exact ⟨_, _, rfl, rfl, rfl⟩

/-- Settles O23, by the answer of IVB, the lemmas on staging and the two lemmas on order. -/
theorem ivbAppendsOneIvByte : Obligations.IvbAppendsOneIvByte := by
  unfold Obligations.IvbAppendsOneIvByte
  refine ⟨encodedWithData_of_encode encode_ivb (by decide), fun d => acceptedInEmptyAndReady _, ?lowers, ?loaded,
    execAll_keyb_ivb_comm, ?order, ?answer⟩
  case lowers => exact fun i s t hr h hlt => exec_lowers_count h (.inr ⟨hr, hlt⟩)
  case loaded => exact fun k v v' m hv => SameLowBits.loadCells_eq (fun _ => rfl) hv m
  case order => exact ⟨0x00#8, 0x01#8, State.reset, execAll_ivb_order (by decide)⟩
  case answer => exact fun d s => ⟨_, exec_ivb_answer d s, rfl, stageByte_below d,
    fun hfull => (Prod.ext_iff.1 (stageByte_ge d hfull)).symm, status_icnt _⟩

/-- Settles O29, by the kinds of edge: a tick, an invalid word and an idle edge keep both counts. -/
theorem onlyInitClrAndResetLowerTheCounts : Obligations.OnlyInitClrAndResetLowerTheCounts := by
  unfold Obligations.OnlyInitClrAndResetLowerTheCounts
  intro s t hs h hlow
  have hkept (hk : t.kcnt = s.kcnt) (hv : t.icnt = s.icnt) : False := by
    rw [hk, hv] at hlow
    omega
  rcases step_cases h with ⟨hr, -⟩ | ⟨-, -, rfl⟩ | ⟨ha, i, hd, hexec⟩ | ⟨-, -, rfl⟩ | ⟨-, -, -, rfl⟩
  · exact .inl hr
  · exact (hkept rfl rfl).elim
  · have hacc := accepted_encode ha hd
    obtain rfl | rfl := exec_lowers_count hexec (hlow.imp (⟨hs.kcnt_range, ·⟩) (⟨hs.icnt_range, ·⟩))
    · exact .inr (.inl hacc)
    · exact .inr (.inr hacc)
  · exact (hkept rfl rfl).elim
  · exact (hkept rfl rfl).elim

end Sys2Proof.Proofs
end

section
/-! PROOFS. INIT (spec/40_loader.md R112): the table of the loaded cells, and the three ways it ends. -/

namespace Sys2Proof.Proofs

open Sys2Proof.Machine Sys2Proof.Claims

/-! ### The table of the loaded cells -/

/-- Below the top segment no marker is set. -/
theorem not_mem_markers {m : Config.MarkerCells} (hm : m.wf = true) {i : Nat} (hi : i < 177) : i ∉ m :=
  fun h => absurd (Marker.range hm h).1 (by omega)

theorem cell_loadCells_key (k v : Vector Byte 80) {m : Config.MarkerCells} (hm : m.wf = true) (j : Fin 80) :
    cell (loadCells k v m) j = k[j].getLsbD 0 := by
  rw [cell_loadCells _ _ _ _ (by omega), dif_pos j.isLt, decide_eq_false (not_mem_markers hm (by omega)), Bool.false_or]
  rfl

theorem cell_loadCells_iv (k v : Vector Byte 80) {m : Config.MarkerCells} (hm : m.wf = true) (j : Fin 80) :
    cell (loadCells k v m) (93 + j) = v[j].getLsbD 0 := by
  rw [cell_loadCells _ _ _ _ (by omega), dif_neg (by omega), dif_pos (by omega),
    decide_eq_false (not_mem_markers hm (by omega)), Bool.false_or]
  simp [elementBit]

/-- The cells that take neither key nor IV are the marker's. -/
theorem cell_loadCells_rest (k v : Vector Byte 80) (m : Config.MarkerCells) {i : Nat} (hk : 80 ≤ i)
    (hv : i < 93 ∨ 173 ≤ i) (hi : i < 288) : cell (loadCells k v m) i = decide (i ∈ m) := by
  rw [cell_loadCells _ _ _ _ hi, dif_neg (by omega), dif_neg (by omega), Bool.or_false]

/-- An all-zero key and IV load nothing but the marker. -/
theorem cell_loadCells_zeros (m : Config.MarkerCells) {i : Nat} (hi : i < 288) :
    cell (loadCells zeros zeros m) i = decide (i ∈ m) := by
  rw [cell_loadCells _ _ _ _ hi]
  simp [zeros, elementBit]

/-! ### INIT -/

/-- INIT with both counts 80 constructs the engine of the staged key and IV, clears the buffers and starts warm-up. -/
theorem exec_init_answer {s : State} (hk : s.kcnt = 80#7) (hv : s.icnt = 80#7) :
    exec .init s = .next { s with
      cells := loadCells s.kbuf s.ibuf s.markers, kbuf := zeros, kcnt := 0#7, ibuf := zeros, icnt := 0#7, wcnt := 0#11,
      phase := .warmup, rsp := 0x4000#16, rspV := true } :=
  exec_init_ok hk hv

/-- Settles O25, by the three ways INIT ends and the table of the cells. -/
theorem initConstructsAnEngine : Obligations.InitConstructsAnEngine := by
  unfold Obligations.InitConstructsAnEngine
  refine ⟨encodedAs_of_encode (by decide), acceptedInEmptyAndReady _, otherwiseBadCmd_of_plain (by decide),
    fun s hk => exec_init_key hk, fun s hk hv => exec_init_iv hk hv, fun s hk hv hm => ?success,
    fun s hk hv hkb hvb hm herr => ?zeroEngine⟩
  case success =>
    refine ⟨_, exec_init_answer hk hv, rfl, rfl, cell_loadCells_key s.kbuf s.ibuf hm, fun i hlow hhigh => ?gap,
      cell_loadCells_iv s.kbuf s.ibuf hm, fun i hlow hhigh => ?top, loadCells_ne_zero s.kbuf s.ibuf hm⟩
    case gap =>
      rw [cell_loadCells_rest _ _ _ hlow (.inl hhigh) (by omega)]
      exact decide_eq_false (not_mem_markers hm (by omega))
    case top => rw [cell_loadCells_rest _ _ _ (by omega) (.inr hlow) hhigh, decide_eq_true_iff]
  case zeroEngine =>
    refine ⟨_, exec_init_answer hk hv, rfl, ?status, fun i hi => ?cells⟩
    case status =>
      simp only [State.status, State.busy, herr]
      decide
    case cells =>
      simp only [hkb, hvb, hm, cell_loadCells_zeros _ hi, decide_eq_true_iff]
      exact List.mem_singleton

end Sys2Proof.Proofs
end

section
/-! PROOFS. The frame of the commands (spec/40_loader.md to spec/44_control.md). -/

namespace Sys2Proof.Proofs

open Sys2Proof.Machine Sys2Proof.Claims

/-- An INIT that fails keeps the engine, and one that succeeds keeps LAST_ERR (R112, R208). -/
theorem exec_init_frame {s t : State} (h : exec .init s = .next t) :
    (rspCode t.rsp ≠ 0#3 → t.cells = s.cells ∧ t.phase = s.phase ∧ t.wcnt = s.wcnt) ∧
      (rspCode t.rsp = 0#3 → t.lastErr = s.lastErr) := by
  rcases exec_init_cases s with ⟨-, e⟩ | ⟨-, -, e⟩ | ⟨-, -, e⟩ <;> rw [e] at h <;> cases h
  · exact ⟨fun _ => ⟨rfl, rfl, rfl⟩, fun hcode => by simp at hcode⟩
  · exact ⟨fun _ => ⟨rfl, rfl, rfl⟩, fun hcode => by simp at hcode⟩
  · exact ⟨fun hcode => by simp at hcode, fun _ => rfl⟩

/-- Settles O52, command by command. -/
theorem commandsWriteOnlyTheirRegisters : Obligations.CommandsWriteOnlyTheirRegisters := by
  unfold Obligations.CommandsWriteOnlyTheirRegisters
  intro i s t h
  obtain ⟨_, _, -, -, hmark, hpins, -⟩ := exec_responds h
  refine ⟨hmark, hpins, ?nop, ?keyb, ?ivb, fun hi => (exec_keystream_frame hi h).1,
    fun hi => (exec_keystream_frame hi h).2, ?initFails, ?initSucceeds⟩
  case nop => rintro rfl; cases h; rfl
  case keyb => rintro ⟨d, rfl⟩; cases h; rfl
  case ivb => rintro ⟨d, rfl⟩; cases h; rfl
  case initFails => rintro rfl; exact (exec_init_frame h).1
  case initSucceeds => rintro rfl; exact (exec_init_frame h).2

end Sys2Proof.Proofs
end

section
/-! SUPPORT. A run of warm-up ticks (spec/41_warmup.md R130, R132): the engine `k` ticks after its construction, one tick
more, and the run that leads there while no reset is driven. -/

namespace Sys2Proof.Proofs

open Sys2Proof.Machine Sys2Proof.Claims

/-- The engine `k` ticks after `s`, a state in WARMUP with WCNT 0; `k` is at most 1152. -/
def afterTicks (k : Nat) (s : State) : State :=
  { s with
    cells := stepN k s.cells
    wcnt := BitVec.ofNat 11 k
    phase := if k = 1152 then .ready else .warmup
    rspV := decide (k = 0) && s.rspV
    pins := s.pins.drop k }

theorem afterTicks_zero {s : State} (hp : s.phase = .warmup) (hw : s.wcnt = 0#11) : afterTicks 0 s = s := by
  cases s
  cases hp
  cases hw
  simp [afterTicks]

/-- WCNT holds the number of ticks: 1152 fits into its 11 bits (R35). -/
theorem afterTicks_wcnt {k : Nat} (s : State) (hk : k ≤ 1152) : (afterTicks k s).wcnt.toNat = k :=
  Nat.mod_eq_of_lt (by omega)

theorem afterTicks_phase_warmup {k : Nat} (s : State) (hk : k < 1152) : (afterTicks k s).phase = .warmup :=
  if_neg (by omega)

theorem afterTicks_rspV {k : Nat} (s : State) (hk : 1 ≤ k) : (afterTicks k s).rspV = false := by
  simp [afterTicks, show k ≠ 0 by omega]

/-- One tick more: WCNT is 1151 before the last of them and no other (R130). -/
theorem tick_afterTicks {k : Nat} (s : State) (hk : k < 1152) :
    tick (afterTicks k s).popPins = afterTicks (k + 1) s := by
  have hcells : (stepCells (stepN k s.cells)).1 = stepN (k + 1) s.cells := (stepN_succ k s.cells).symm
  have hwcnt : BitVec.ofNat 11 k + 1#11 = BitVec.ofNat 11 (k + 1) := (BitVec.ofNat_add k 1).symm
  have hlast : BitVec.ofNat 11 (k + 1) = BitVec.ofNat 11 Config.warmupSteps ↔ k = 1151 := by
    rw [← hwcnt, wcnt_succ_eq_warmupSteps]
    bv_omega
  simp [tick, afterTicks, State.popPins, hcells, hwcnt, hlast, show k ≠ 1152 by omega, List.tail_drop]

/-- The input of the coming edge is that of a list without reset, or idle. -/
theorem rst_pinsNow_of_noReset {n k : Nat} {s : State} (hnr : NoReset (s.pins.take n)) (hk : k < n) :
    (afterTicks k s).pinsNow.rst = false := by
  have hnow : (afterTicks k s).pinsNow = (s.pins[k]?).getD Pins.idle := by
    simp [State.pinsNow, afterTicks, List.headD_eq_head?_getD]
  rw [hnow]
  cases hget : s.pins[k]? with
  | none => rfl
  | some p => exact hnr p (List.mem_of_getElem? ((List.getElem?_take_of_lt hk).trans hget))

/-- A run and one edge more. -/
theorem runs_snoc {n : Nat} {s t u : State} (h : Runs n s t) (hu : step t = .next u) : Runs (n + 1) s u :=
  (runs_add h 1 u).2 ⟨u, hu, rfl⟩

/-- While no reset is driven, every edge of the warm-up is a tick (R132). -/
theorem runs_afterTicks {s : State} (hp : s.phase = .warmup) (hw : s.wcnt = 0#11)
    (hnr : NoReset (s.pins.take 1152)) {k : Nat} (hk : k ≤ 1152) : Runs k s (afterTicks k s) := by
  induction k with
  | zero => exact (afterTicks_zero hp hw).symm
  | succ k ih =>
    refine runs_snoc (ih (by omega)) ?_
    rw [step_tick (rst_pinsNow_of_noReset hnr hk) (afterTicks_phase_warmup s hk), tick_afterTicks s hk]

end Sys2Proof.Proofs
end

section
/-! PROOFS. The warm-up (spec/41_warmup.md R130, R132, R133): its timing, what ends it early, and its tick. -/

namespace Sys2Proof.Proofs

open Sys2Proof.Machine Sys2Proof.Claims

/-- The engine that an accepted INIT constructs from the staged key and IV, with the input of the edge used up (R112). -/
def afterInit (s : State) : State :=
  { s with
    cells := loadCells s.kbuf s.ibuf s.markers
    kbuf := zeros, kcnt := 0#7, ibuf := zeros, icnt := 0#7
    wcnt := 0#11, phase := .warmup, rsp := 0x4000#16, rspV := true, pins := s.pins.tail }

/-- An accepted INIT with both counts 80 constructs the engine. -/
theorem step_init_ok {s : State} (ha : Accepted 0x4000#16 s) (hk : s.kcnt = 80#7) (hv : s.icnt = 80#7) :
    step s = .next (afterInit s) := by
  rw [step_accept_ok (i := .init) ha.1 (by rw [ha.2]; rfl), exec_init_answer (s := s.popPins) hk hv]
  rfl

/-- Settles O32, by the run of `k` ticks from the engine that INIT constructs. -/
theorem warmupTakes1152Ticks : Obligations.WarmupTakes1152Ticks := by
  unfold Obligations.WarmupTakes1152Ticks
  intro s hold rest ha hk hv hpins hlen hnr
  have hinit : step s = .next (afterInit s) := step_init_ok ha hk hv
  have hhold : NoReset ((afterInit s).pins.take 1152) := by
    rwa [show (afterInit s).pins = hold ++ rest from hpins, List.take_left' hlen]
  refine ⟨⟨_, ⟨_, hinit, rfl⟩, rfl, rfl, rfl, rfl⟩, fun k hk1 hk2 => ?ticks⟩
  case ticks =>
    refine ⟨afterTicks k (afterInit s), ?run, afterTicks_wcnt _ hk2, afterTicks_rspV _ hk1, rfl, rfl,
      fun hlt => ?waiting, fun hlast => ?done⟩
    case run =>
      rw [Nat.add_comm]
      exact (runs_succ hinit _).2 (runs_afterTicks rfl rfl hhold hk2)
    case waiting =>
      have hp := afterTicks_phase_warmup (afterInit s) hlt
      exact ⟨hp, by simp [State.cmdReady, hp]⟩
    case done =>
      have hp : (afterTicks k (afterInit s)).phase = .ready := if_pos hlast
      have hrest : (afterTicks k (afterInit s)).pins = rest := by
        rw [hlast, show (afterTicks 1152 (afterInit s)).pins = s.pins.tail.drop 1152 from rfl, hpins,
          List.drop_left' hlen]
      refine ⟨hp, hrest, fun hr => (cmdReady_iff _).2 ⟨hr, by simp [hp]⟩, fun w hw => ⟨?_, by rw [hw]; rfl⟩⟩
      exact (acceptedInEmptyAndReady w _ hw).2 (.inr hp)

/-- Settles O33, by when an edge leaves WARMUP, the reset edge, and the frame of a failed INIT. -/
theorem onlyResetEndsWarmupEarly : Obligations.OnlyResetEndsWarmupEarly := by
  unfold Obligations.OnlyResetEndsWarmupEarly
  refine ⟨fun s hp => ?_, fun s t hp h hne hw => ?_, fun s _ hr => ⟨_, step_reset hr, rfl, rfl, rfl⟩,
    fun s t _ h hcode => ?_⟩
  · by_contra ha
    exact phase_ne_warmup_of_accepts (by simpa using ha) hp
  · exact ((step_leaves_warmup_iff h hp).1 hne).resolve_right hw
  · obtain ⟨-, hphase, -⟩ := (exec_init_frame h).1 hcode
    exact hphase

/-- Settles O31, by the equation of a tick; the bound on WCNT comes from the invariant. -/
theorem warmupTick : Obligations.WarmupTick := by
  unfold Obligations.WarmupTick
  intro s hr hp
  have hphase : (tick s.popPins).phase = if s.wcnt = 1151#11 then .ready else .warmup := by simp [hp]
  refine ⟨tick s.popPins, step_tick hr hp, rfl, fun hlast => ?last, fun hearly => hphase.trans (if_neg hearly),
    fun hs => ?range⟩
  case last =>
    have hready := hphase.trans (if_pos hlast)
    have hne : (tick s.popPins).phase ≠ .warmup := by rw [hready]; decide
    refine ⟨by simp [hlast], hready, ?_, fun hrst => (cmdReady_iff _).2 ⟨hrst, hne⟩⟩
    rw [status_busy, busy_eq_false_iff]
    exact hne
  case range =>
    have hbound := hs.warmup_wcnt hp
    rw [tick_wcnt, popPins_wcnt]
    bv_omega

end Sys2Proof.Proofs
end

section
/-! PROOFS. The keystream of the all-zero key and IV, without and with warm-up (spec/41_warmup.md R134). -/

namespace Sys2Proof.Proofs

open Sys2Proof.Machine Sys2Proof.Claims

/-- `stepN` in a form that the kernel evaluates state by state: the test asks for the value of every state, where `stepN`
alone builds a thousand steps before the first of them is evaluated. Both branches step alike. -/
def stepNEager : Nat → Cells → Cells
  | 0, S => S
  | n + 1, S => if S = 0#288 then stepN (n + 1) S else stepNEager n (stepCells S).1

theorem stepNEager_eq (n : Nat) (S : Cells) : stepNEager n S = stepN n S := by
  induction n generalizing S with
  | zero => rfl
  | succ n ih =>
    rw [stepNEager, ih]
    exact ite_self _

/-- The cells after warm-up in TRV-B/DOC, the 40 set cells of the vector WU-2. -/
theorem warmedUp_doc : stepN 1152 (loadCells zeros zeros Config.markersDoc) =
    0x900020004824924904020004900000100804800000804104020120104004100104820920#288 := by
  rw [← stepNEager_eq]
  decide +kernel

/-- The cells after warm-up in TRV-B/PUBLISHED. -/
theorem warmedUp_published : stepN 1152 (loadCells zeros zeros Config.markersPublished) =
    0x92ac487e267f5871d3a1896df514ad2fea84132040ae4058a21b38ec692ae61d74931a85#288 := by
  rw [← stepNEager_eq]
  decide +kernel

/-- Settles O55, by evaluation from the loaded cells and from the cells after warm-up. -/
theorem skippedWarmupGivesAnotherKeystream : Obligations.SkippedWarmupGivesAnotherKeystream := by
  unfold Obligations.SkippedWarmupGivesAnotherKeystream
  rw [warmedUp_doc, warmedUp_published]
  exact ⟨by decide +kernel, by decide +kernel, by decide +kernel, by decide +kernel⟩

end Sys2Proof.Proofs
end

section
/-! PROOFS. The step function, cell by cell, and its other forms (spec/42_stepper.md R140 to R143): a rotation, a
circular buffer, and the cells it reads (R145). -/

namespace Sys2Proof.Proofs

open Sys2Proof.Machine Sys2Proof.Claims

/-! ### The next state, cell by cell -/

theorem cell_stepCells_headA (S : Cells) : cell (stepCells S).1 0 = f3 S :=
  (cell_stepCells S 0 (by decide)).trans (if_pos rfl)

theorem cell_stepCells_headB (S : Cells) : cell (stepCells S).1 93 = f1 S :=
  (cell_stepCells S 93 (by decide)).trans ((if_neg (by decide)).trans (if_pos rfl))

theorem cell_stepCells_headC (S : Cells) : cell (stepCells S).1 177 = f2 S :=
  (cell_stepCells S 177 (by decide)).trans ((if_neg (by decide)).trans ((if_neg (by decide)).trans (if_pos rfl)))

/-- Every cell but a segment's head takes its lower neighbour. -/
theorem cell_stepCells_shift (S : Cells) {i : Nat} (hi : i < 288) (ha : i ≠ 0) (hb : i ≠ 93) (hc : i ≠ 177) :
    cell (stepCells S).1 i = cell S (i - 1) := by
  rw [cell_stepCells S i hi, if_neg ha, if_neg hb, if_neg hc]

/-- The injection cells are not among the cells read (R142). -/
theorem heads_not_read : ∀ i ∈ [0, 93, 177], i ∉ cellsRead := by decide

/-- Settles O34, by the lemmas on the three heads and the shift. -/
theorem stepFunctionCellByCell : Obligations.StepFunctionCellByCell := by
  unfold Obligations.StepFunctionCellByCell
  exact fun S => ⟨stepCells_out S, cell_stepCells_headA S, cell_stepCells_headB S, cell_stepCells_headC S,
    heads_not_read, fun i h1 hi hb hc => cell_stepCells_shift S hi (by omega) hb hc⟩

/-! ### Rotation and circular buffer -/

/-- A rotation by one carries every cell but `S[287]` as the shift does. -/
theorem cell_rotateLeft_one (S : Cells) {i : Nat} (hi : i < 288) (h0 : i ≠ 0) :
    cell (S.rotateLeft 1) i = cell S (i - 1) := by
  rw [cell, BitVec.getLsbD_rotateLeft, show 1 % 288 = 1 from rfl, decide_eq_false (show ¬ i < 1 by omega),
    decide_eq_true hi]
  rfl

theorem rotate_inject_eq_step (S : Cells) :
    setCell (setCell (setCell (S.rotateLeft 1) 0 (f3 S)) 93 (f1 S)) 177 (f2 S) = (stepCells S).1 := by
  apply cells_ext
  intro i hi
  rw [cell_setCell _ _ _ _ (by decide), cell_setCell _ _ _ _ (by decide), cell_setCell _ _ _ _ (by decide)]
  split_ifs with hc hb ha
  · rw [hc, cell_stepCells_headC]
  · rw [hb, cell_stepCells_headB]
  · rw [ha, cell_stepCells_headA]
  · rw [cell_rotateLeft_one S hi ha, cell_stepCells_shift S hi ha hb hc]

/-- With the head anywhere, different logical cells are different physical cells. -/
theorem physical_inj {h i j : Nat} (hh : h < 288) (hi : i < 288) (hj : j < 288) :
    (i + 288 - h) % 288 = (j + 288 - h) % 288 ↔ i = j := by omega

/-- Moving the head by one moves every logical cell up by one. -/
theorem physical_move_head {h i : Nat} (hh : h < 288) (hi : i < 288) (h0 : i ≠ 0) :
    (i + 288 - (h + 1) % 288) % 288 = (i - 1 + 288 - h) % 288 := by omega

/-- The logical cells after a step of the circular buffer: the injections at the heads, the old cells moved up
elsewhere. -/
theorem logical_circularStep (S : Cells) (P : Nat → Bool) {h i : Nat} (hh : h < 288) (hi : i < 288) :
    logical (circularStep S P h).1 (circularStep S P h).2 i =
      if i = 0 then f3 S else if i = 93 then f1 S else if i = 177 then f2 S else logical P h (i - 1) := by
  have hhead : (h + 1) % 288 < 288 := Nat.mod_lt _ (by decide)
  simp only [logical, circularStep, physical_inj hhead hi (show 0 < 288 by decide),
    physical_inj hhead hi (show 93 < 288 by decide), physical_inj hhead hi (show 177 < 288 by decide)]
  split_ifs with ha hb hc
  · rfl
  · rfl
  · rfl
  · rw [physical_move_head hh hi ha]

/-- Settles O35, by the rotation's cells and the circular buffer's logical cells. -/
theorem shiftRotationAndCircularBufferAgree : Obligations.ShiftRotationAndCircularBufferAgree := by
  unfold Obligations.ShiftRotationAndCircularBufferAgree
  refine ⟨rotate_inject_eq_step, fun S P h hh hP i hi => ?circular,
    fun S i h0 hi hb hc => cell_stepCells_shift S hi (by omega) hb hc⟩
  case circular =>
    rw [logical_circularStep S P hh hi, hP (i - 1) (by omega), cell_stepCells S i hi]
    rfl

/-! ### The cells read -/

/-- Two states that agree on the six output taps give the same output bit. -/
theorem stepCells_out_congr {S T : Cells} (h : ∀ i ∈ outputTaps, cell S i = cell T i) :
    (stepCells S).2 = (stepCells T).2 := by
  rw [stepCells_out, stepCells_out, h 65 (by decide), h 92 (by decide), h 161 (by decide), h 176 (by decide),
    h 242 (by decide), h 287 (by decide)]

/-- Two states that agree on the 15 cells read give the same injected cells. -/
theorem stepCells_heads_congr {S T : Cells} (h : ∀ i ∈ cellsRead, cell S i = cell T i) :
    ∀ i ∈ [0, 93, 177], cell (stepCells S).1 i = cell (stepCells T).1 i := by
  have h1 : f1 S = f1 T := by
    rw [f1, f1, t1, t1, h 65 (by decide), h 92 (by decide), h 90 (by decide), h 91 (by decide), h 170 (by decide)]
  have h2 : f2 S = f2 T := by
    rw [f2, f2, t2, t2, h 161 (by decide), h 176 (by decide), h 174 (by decide), h 175 (by decide), h 263 (by decide)]
  have h3 : f3 S = f3 T := by
    rw [f3, f3, t3, t3, h 242 (by decide), h 287 (by decide), h 285 (by decide), h 286 (by decide), h 68 (by decide)]
  simp [cell_stepCells_headA, cell_stepCells_headB, cell_stepCells_headC, h1, h2, h3]

/-- In the all-one state every one of the 15 cells read matters: both inputs of each AND are 1. Clearing one of the
cells changes the output bit or an injected cell. -/
theorem read_cell_matters : ∀ j ∈ cellsRead,
    (stepCells (BitVec.allOnes 288)).2 ≠ (stepCells (setCell (BitVec.allOnes 288) j false)).2 ∨
      ∃ i ∈ [0, 93, 177], cell (stepCells (BitVec.allOnes 288)).1 i ≠
        cell (stepCells (setCell (BitVec.allOnes 288) j false)).1 i := by
  decide +kernel

theorem cellsRead_lt : ∀ j ∈ cellsRead, j < 288 := by decide

/-- The state in which cell `j` alone is 1. -/
theorem cell_single {j : Nat} (hj : j < 288) (i : Nat) : cell (setCell 0#288 j true) i = decide (i = j) := by
  rw [cell_setCell _ _ _ _ hj, cell_zero]
  split_ifs with h <;> simp [h]

/-- The step writes cell `i`, which can differ from the cell it was: 0 before, it takes the 1 of a head's linear
feedback cell or of its lower neighbour. -/
theorem cell_written {i : Nat} (hi : i < 288) : ∃ S : Cells, cell (stepCells S).1 i ≠ cell S i := by
  by_cases ha : i = 0
  · exact ⟨setCell 0#288 68 true, by simp [ha, cell_stepCells_headA, f3, t3, cell_single]⟩
  by_cases hb : i = 93
  · exact ⟨setCell 0#288 170 true, by simp [hb, cell_stepCells_headB, f1, t1, cell_single]⟩
  by_cases hc : i = 177
  · exact ⟨setCell 0#288 263 true, by simp [hc, cell_stepCells_headC, f2, t2, cell_single]⟩
  · have hlow : i - 1 < 288 := by omega
    refine ⟨setCell 0#288 (i - 1) true, ?_⟩
    simp [cell_stepCells_shift _ hi ha hb hc, cell_single hlow, show i ≠ i - 1 by omega]

/-- Settles O37, by the lemmas on the cells read, the shift and the cells written. -/
theorem stepReadsFifteenCells : Obligations.StepReadsFifteenCells := by
  unfold Obligations.StepReadsFifteenCells
  refine ⟨by decide, by decide, fun S T => stepCells_out_congr, fun S T => stepCells_heads_congr, fun j hj => ?read,
    fun S i hi hheads => ?shift, fun i => cell_written⟩
  case read =>
    refine ⟨_, _, fun i hij => ?_, read_cell_matters j hj⟩
    rw [cell_setCell _ _ _ _ (cellsRead_lt j hj), if_neg hij]
  case shift =>
    simp only [List.mem_cons, List.not_mem_nil, or_false, not_or] at hheads
    obtain ⟨ha, hb, hc⟩ := hheads
    exact cell_stepCells_shift S hi ha hb hc

end Sys2Proof.Proofs
end

section
/-! PROOFS. The step is a bijection (spec/42_stepper.md R144): the all-zero fixed point, the inverse by the rule's
formulas, and that no edge steps backwards. -/

namespace Sys2Proof.Proofs

open Sys2Proof.Machine Sys2Proof.Claims

/-! ### The fixed point -/

theorem stepCells_zero : stepCells 0#288 = (0#288, false) := by decide +kernel

theorem stepN_of_zero (n : Nat) : stepN n 0#288 = 0#288 := by
  induction n with
  | zero => rfl
  | succ n ih => rw [stepN, stepCells_zero, ih]

/-! ### The inverse -/

/-- Every cell but the three tails comes back by the shift alone. -/
theorem cell_unshift_step (S : Cells) {i : Nat} (hi : i < 287) (ha : i ≠ 92) (hb : i ≠ 176) :
    cell (unshift (stepCells S).1) i = cell S i := by
  rw [cell_of_next S i hi ha hb, cell, unshift, BitVec.getLsbD_ushiftRight, Nat.add_comm]
  rfl

theorem stepBack_stepCells (S : Cells) : stepBack (stepCells S).1 = S := by
  apply cells_ext
  intro i hi
  simp only [stepBack]
  rw [cell_setCell _ _ _ _ (by decide), cell_setCell _ _ _ _ (by decide), cell_setCell _ _ _ _ (by decide)]
  split_ifs with hc hb ha
  · rw [hc, tailC_of_next S, cell_unshift_step S (i := 242), cell_unshift_step S (i := 285),
      cell_unshift_step S (i := 286), cell_unshift_step S (i := 68)] <;> decide
  · rw [hb, tailB_of_next S, cell_unshift_step S (i := 161), cell_unshift_step S (i := 174),
      cell_unshift_step S (i := 175), cell_unshift_step S (i := 263)] <;> decide
  · rw [ha, tailA_of_next S, cell_unshift_step S (i := 65), cell_unshift_step S (i := 90),
      cell_unshift_step S (i := 91), cell_unshift_step S (i := 170)] <;> decide
  · exact cell_unshift_step S (by omega) ha hb

theorem stepBack_leftInverse : Function.LeftInverse stepBack fun S => (stepCells S).1 := stepBack_stepCells

/-- The states are finitely many, so the injective step is also onto. -/
theorem stepCells_bijective : Function.Bijective fun S : Cells => (stepCells S).1 :=
  Finite.injective_iff_bijective.1 stepBack_leftInverse.injective

theorem stepCells_stepBack (N : Cells) : (stepCells (stepBack N)).1 = N :=
  stepBack_leftInverse.rightInverse_of_surjective stepCells_bijective.surjective N

/-! ### No edge steps backwards -/

theorem bitsTaken_of_takesKeystream {i : Instr} (hi : takesKeystream i = true) : bitsTaken i ∈ [1, 8] := by
  cases i with
  | stepb | ksb | xorb => simp [bitsTaken]
  | nop | clr | keyb | ivb | init => cases hi

/-- An edge keeps, clears or loads the cells, or makes one or eight steps. -/
theorem step_cells_cases {s t : State} (h : step s = .next t) :
    t.cells = s.cells ∨ t.cells = 0#288 ∨ t.cells = loadCells s.kbuf s.ibuf s.markers ∨
      ∃ n, n ∈ [1, 8] ∧ t.cells = stepN n s.cells := by
  cases step_onEngine h with
  | reset _ _ hcells => exact .inr (.inl hcells)
  | tick _ _ _ hcells => exact .inr (.inr (.inr ⟨1, by decide, hcells⟩))
  | kept _ _ hcells => exact .inl hcells
  | command i _ he =>
    cases he with
    | kept _ hcells => exact .inl hcells
    | cleared _ hcells => exact .inr (.inl hcells)
    | constructed _ _ _ hcells => exact .inr (.inr (.inl hcells))
    | stepped hi _ _ hcells => exact .inr (.inr (.inr ⟨_, bitsTaken_of_takesKeystream hi, hcells⟩))

/-- Settles O36, by the left inverse on finitely many states and by what an edge does to the cells. -/
theorem stepIsABijection : Obligations.StepIsABijection := by
  unfold Obligations.StepIsABijection
  refine ⟨stepCells_zero, fun n => ?zeroStream, stepCells_bijective, stepBack_stepCells, stepCells_stepBack,
    fun S => ⟨cell_of_next S, tailA_of_next S, tailB_of_next S, tailC_of_next S⟩, fun s t => step_cells_cases⟩
  case zeroStream => rw [keystreamBit, stepN_of_zero, stepCells_zero]

end Sys2Proof.Proofs
end

section
/-! PROOFS. The byte-cell form (spec/42_stepper.md R149): bit plane 0 of a byte state is a state of the engine's one-bit
cells, and the byte step simulates the step on it. -/

namespace Sys2Proof.Proofs

open Sys2Proof.Machine Sys2Proof.Claims

/-! ### The simulation relation -/

/-- Bit plane 0 of the byte cells is the cipher state. -/
def OnPlane0 (B : Nat → Byte) (S : Cells) : Prop := ∀ i < 288, (B i).getLsbD 0 = cell S i

/-- The cipher state on bit plane 0. -/
def plane0 (B : Nat → Byte) : Cells := BitVec.ofFnLE fun i : Fin 288 => (B i).getLsbD 0

theorem onPlane0_plane0 (B : Nat → Byte) : OnPlane0 B (plane0 B) := by
  intro i hi
  rw [cell, plane0, BitVec.getLsbD_ofFnLE, dif_pos hi]

/-- Key and IV bytes loaded whole, and the marker as 0x01, are INIT's cells on plane 0 (R112). -/
theorem onPlane0_byteLoad (k v : Vector Byte 80) (m : Config.MarkerCells) :
    OnPlane0 (byteLoad k v m) (loadCells k v m) := by
  intro i hi
  rw [cell_loadCells k v m i hi, byteLoad]
  by_cases hm : i ∈ m
  · simp [hm]
  · rw [if_neg hm, decide_eq_false hm, Bool.false_or]
    split_ifs <;> rfl

/-! ### One step and several -/

/-- The output byte's bit 0 is the output bit: `^` acts on each plane alone. -/
theorem OnPlane0.step_out {B : Nat → Byte} {S : Cells} (h : OnPlane0 B S) :
    (byteStep B).2.getLsbD 0 = (stepCells S).2 := by
  simp only [byteStep, stepCells_out, BitVec.getLsbD_xor]
  rw [h 65 (by decide), h 92 (by decide), h 161 (by decide), h 176 (by decide), h 242 (by decide), h 287 (by decide)]

/-- The byte step keeps the relation: at the three heads `^` and `&` act on plane 0 alone, elsewhere whole bytes
shift. -/
theorem OnPlane0.step {B : Nat → Byte} {S : Cells} (h : OnPlane0 B S) : OnPlane0 (byteStep B).1 (stepCells S).1 := by
  intro i hi
  rw [cell_stepCells S i hi]
  simp only [byteStep, apply_ite (BitVec.getLsbD · 0), BitVec.getLsbD_xor, BitVec.getLsbD_and]
  split_ifs
  · rw [h 242 (by decide), h 287 (by decide), h 285 (by decide), h 286 (by decide), h 68 (by decide)]
  · rw [h 65 (by decide), h 92 (by decide), h 90 (by decide), h 91 (by decide), h 170 (by decide)]
  · rw [h 161 (by decide), h 176 (by decide), h 174 (by decide), h 175 (by decide), h 263 (by decide)]
  · exact h (i - 1) (by omega)

theorem OnPlane0.stepN {B : Nat → Byte} {S : Cells} (h : OnPlane0 B S) (n : Nat) :
    OnPlane0 (byteStepN n B) (stepN n S) := by
  induction n generalizing B S with
  | zero => exact h
  | succ n ih => exact ih h.step

/-- Settles O38, by the simulation along the steps; byte states that agree on plane 0 simulate one and the same state.
-/
theorem byteCellsGiveTheSameKeystream : Obligations.ByteCellsGiveTheSameKeystream := by
  unfold Obligations.ByteCellsGiveTheSameKeystream
  refine ⟨fun k v m n => (onPlane0_byteLoad k v m).stepN n,
    fun k v m n => ((onPlane0_byteLoad k v m).stepN n).step_out, fun B C hBC n i hi => ?planes⟩
  case planes =>
    have hB : OnPlane0 B (plane0 B) := onPlane0_plane0 B
    have hC : OnPlane0 C (plane0 B) := fun j hj => (hBC j hj).symm.trans (hB j hj)
    rw [hB.stepN n i hi, hC.stepN n i hi]

end Sys2Proof.Proofs
end

section
/-! SUPPORT. What a keystream command answers on an engine of which `n` bits have been consumed (spec/42_stepper.md
R146 to R148), and that every list of commands completes, one response a command. -/

namespace Sys2Proof.Proofs

open Sys2Proof.Machine Sys2Proof.Claims

/-! ### A number and its bits -/

/-- The low `n` bits of a number, summed by their weights. -/
theorem sum_testBit_shiftLeft (x n : Nat) : ∑ k ∈ Finset.range n, (x.testBit k).toNat <<< k = x % 2 ^ n := by
  induction n with
  | zero => simp [Nat.mod_one]
  | succ n ih => rw [Finset.sum_range_succ, ih, Nat.mod_pow_succ, Nat.shiftLeft_eq, Nat.toNat_testBit, Nat.mul_comm]

theorem ofNat_sum_bits {w : Nat} (b : BitVec w) :
    BitVec.ofNat w (∑ k ∈ Finset.range w, (b.getLsbD k).toNat <<< k) = b := by
  apply BitVec.eq_of_toNat_eq
  simp only [BitVec.getLsbD]
  rw [sum_testBit_shiftLeft, BitVec.toNat_ofNat, Nat.mod_mod, Nat.mod_eq_of_lt b.isLt]

/-- The byte of eight steps after `n` is the byte of R148 at the stream's bit `n`. -/
theorem keystreamByte_stepN (S : Cells) (n : Nat) : (keystreamByte (stepN n S)).2 = keystreamByteAt S n := by
  rw [← ofNat_sum_bits (keystreamByte (stepN n S)).2, keystreamByteAt]
  refine congrArg (BitVec.ofNat 8) (Finset.sum_congr rfl fun k hk => ?_)
  rw [keystreamByte_bit _ k (Finset.mem_range.1 hk), keystreamBit_add]

/-! ### The answers in READY -/

/-- STEPB's response carries the output bit in DATA[0] (R146). -/
theorem rspWord_stepb (z : Bool) : rspWord (encode .stepb) .ok (zext8 z) = if z then 0x5001#16 else 0x5000#16 := by
  cases z <;> decide

theorem exec_stepb_answer {s : State} (hp : s.phase = .ready) :
    exec .stepb s = .next { s with
      cells := (stepCells s.cells).1
      rsp := if (stepCells s.cells).2 then 0x5001#16 else 0x5000#16
      rspV := true } := by
  rw [exec_stepb_ready hp, ← rspWord_stepb]
  rfl

theorem rspWord_ksb (b : Byte) : rspWord (encode .ksb) .ok b = 0x60#8 ++ b := rfl

theorem exec_ksb_answer {s : State} (hp : s.phase = .ready) :
    exec .ksb s = .next { s with cells := stepN 8 s.cells, rsp := 0x60#8 ++ (keystreamByte s.cells).2, rspV := true } :=
  exec_ksb_ready hp

theorem rspWord_xorb (d b : Byte) : rspWord (encode (.xorb d)) .ok b = 0x70#8 ++ b := by
  rw [encode_xorb]
  exact rspWord_append 0x7#4 0x0#4 d .ok b

theorem exec_xorb_answer (d : Byte) {s : State} (hp : s.phase = .ready) :
    exec (.xorb d) s = .next { s with
      cells := stepN 8 s.cells, rsp := 0x70#8 ++ (d ^^^ (keystreamByte s.cells).2), rspV := true } := by
  rw [exec_xorb_ready d hp, ← rspWord_xorb d]
  rfl

/-- Where `n` bits have been consumed, a keystream command answers its bits from `z_n` on and consumes them (R148). -/
theorem exec_keystream_consumes {i : Instr} (hi : takesKeystream i = true) {s : State} (hp : s.phase = .ready)
    {S : Cells} {n : Nat} (hs : s.cells = stepN n S) :
    ∃ t, exec i s = .next t ∧ t.phase = .ready ∧ t.cells = stepN (n + bitsTaken i) S ∧
      ∀ is, expectedResponses S n (i :: is) = t.rsp :: expectedResponses S (n + bitsTaken i) is := by
  have hcells (m : Nat) : stepN m s.cells = stepN (n + m) S := by rw [hs, stepN_add]
  have hbyte : keystreamByteAt S n = (keystreamByte s.cells).2 := by rw [hs, keystreamByte_stepN]
  cases i with
  | stepb =>
    have hbit : keystreamBit S n = (stepCells s.cells).2 := by rw [hs, keystreamBit]
    exact ⟨_, exec_stepb_answer hp, hp, hcells 1, fun is => by rw [expectedResponses, hbit]; rfl⟩
  | ksb => exact ⟨_, exec_ksb_answer hp, hp, hcells 8, fun is => by rw [expectedResponses, hbyte]; rfl⟩
  | xorb d => exact ⟨_, exec_xorb_answer d hp, hp, hcells 8, fun is => by rw [expectedResponses, hbyte]; rfl⟩
  | nop | clr | keyb | ivb | init => cases hi

/-! ### Lists of commands -/

/-- No command stops the engine, so every list of them completes (R200). -/
theorem execAll_total (is : List Instr) (s : State) : ∃ t, execAll is s = some t := by
  induction is generalizing s with
  | nil => exact ⟨s, rfl⟩
  | cons i is ih =>
    obtain ⟨t, -, -, ht, -⟩ := exec_next i s
    rw [execAll_cons ht]
    exact ih t

theorem length_responsesOf (is : List Instr) (s : State) : (responsesOf is s).length = is.length := by
  induction is generalizing s with
  | nil => rfl
  | cons i is ih =>
    obtain ⟨t, -, -, ht, -⟩ := exec_next i s
    rw [responsesOf_cons ht, List.length_cons, List.length_cons, ih]

/-- The responses to a list do not depend on the commands after it. -/
theorem take_responsesOf_append (is js : List Instr) (s : State) :
    (responsesOf (is ++ js) s).take is.length = responsesOf is s := by
  obtain ⟨t, ht⟩ := execAll_total is s
  rw [responsesOf_append ht, List.take_left' (length_responsesOf is s)]

end Sys2Proof.Proofs
end

section
/-! PROOFS. The keystream (spec/42_stepper.md R148) and the two commands that return it as it stands, STEPB and KSB
(R146, R147). -/

namespace Sys2Proof.Proofs

open Sys2Proof.Machine Sys2Proof.Claims

/-! ### Consumption in order -/

/-- Keystream commands on an engine of which `n` bits have been consumed. -/
theorem execAll_keystream {is : List Instr} (his : ∀ i ∈ is, takesKeystream i = true) {S : Cells} {n : Nat} {s : State}
    (hp : s.phase = .ready) (hs : s.cells = stepN n S) :
    ∃ t : State, execAll is s = some t ∧ t.phase = .ready ∧
      t.cells = stepN (n + (is.map bitsTaken).sum) S ∧ responsesOf is s = expectedResponses S n is := by
  induction is generalizing n s with
  | nil => exact ⟨s, rfl, hp, hs, by rw [expectedResponses]; rfl⟩
  | cons i is ih =>
    obtain ⟨hi, his⟩ := List.forall_mem_cons.1 his
    obtain ⟨u, hu, hpu, hcu, hexp⟩ := exec_keystream_consumes hi hp hs
    obtain ⟨t, ht, hpt, hct, hresp⟩ := ih his hpu hcu
    refine ⟨t, by rw [execAll_cons hu, ht], hpt, ?_, by rw [responsesOf_cons hu, hexp, hresp]⟩
    rw [hct, List.map_cons, List.sum_cons, Nat.add_assoc]

/-- Settles O42, by induction over the commands, the loaded cells of equal low bits, and the responses to the first
commands. -/
theorem keystreamIsConsumedInOrder : Obligations.KeystreamIsConsumedInOrder := by
  unfold Obligations.KeystreamIsConsumedInOrder
  refine ⟨fun S n is s hp hs his => execAll_keystream his hp hs, fun k k' v v' m hbits n => ?_,
    fun is js s _ _ => ⟨take_responsesOf_append is js s, length_responsesOf _ s⟩⟩
  have hk : SameLowBits k k' := fun j => (hbits j).1
  have hv : SameLowBits v v' := fun j => (hbits j).2
  rw [hk.loadCells_eq hv m]

/-- The responses of an engine that has just finished its warm-up: the keystream starts with it. -/
theorem responsesOf_keystream {is : List Instr} (his : ∀ i ∈ is, takesKeystream i = true) {s : State}
    (hp : s.phase = .ready) : responsesOf is s = expectedResponses s.cells 0 is := by
  obtain ⟨-, -, -, -, hresp⟩ := execAll_keystream his hp (stepN_zero s.cells).symm
  exact hresp

/-! ### STEPB -/

/-- The cells after warm-up in TRV-B/DOC, of the alternating key and the paired IV. -/
theorem warmedUp_alternating : stepN 1152 (loadCells (Vector.ofFn fun j => BitVec.ofNat 8 (j.val % 2))
    (Vector.ofFn fun j => if 2 ≤ j.val % 4 then 0x01#8 else 0x00#8) Config.markersDoc) = 
    0xabd21582ac5506e5adfd7bcabf4d0b7ddb70aaf666ba0943b2f75958d21d12292d8df2a1#288 := by
  rw [← stepNEager_eq]
  decide +kernel

/-- Settles O39, by the answers of STEPB and, for the example, the keystream from the cells after warm-up. -/
theorem stepbReturnsOneKeystreamBit : Obligations.StepbReturnsOneKeystreamBit := by
  unfold Obligations.StepbReturnsOneKeystreamBit
  refine ⟨encodedAs_of_encode (by decide), acceptedInEmptyAndReady _, otherwiseBadCmd_of_plain (by decide),
    fun s hp => exec_stepb_notReady hp, fun s hp => exec_stepb_answer hp, fun s hp hs => ?vector⟩
  case vector =>
    rw [responsesOf_keystream (by decide) hp, hs, warmedUp_alternating]
    decide +kernel

/-! ### KSB -/

/-- Settles O40, by the answers of KSB and, for the example, the keystream from the cells after warm-up. -/
theorem ksbReturnsOneKeystreamByte : Obligations.KsbReturnsOneKeystreamByte := by
  unfold Obligations.KsbReturnsOneKeystreamByte
  refine ⟨encodedAs_of_encode (by decide), acceptedInEmptyAndReady _, otherwiseBadCmd_of_plain (by decide),
    fun s hp => exec_ksb_notReady hp, fun s hp => ⟨_, exec_ksb_answer hp, keystreamByte_bit s.cells⟩,
    fun s hp hs => ?vector⟩
  case vector =>
    rw [responsesOf_keystream (by decide) hp, hs, warmedUp_doc]
    decide +kernel

end Sys2Proof.Proofs
end

section
/-! SUPPORT. A list of bytes combined with the keystream (spec/43_combiner.md R170, R171): the bytes that XORB answers,
their involution, and what a list of XORB commands does to a READY engine. -/

namespace Sys2Proof.Proofs

open Sys2Proof.Machine Sys2Proof.Claims

/-! ### Bytes combined with a stretch of keystream -/

/-- The bytes combined, in order, with the keystream bytes from the stream's bit `n` on (R171). -/
def combineStream (S : Cells) (n : Nat) (ds : List Byte) : List Byte :=
  ds.mapIdx fun i d => d ^^^ keystreamByteAt S (n + 8 * i)

@[simp] theorem length_combineStream (S : Cells) (n : Nat) (ds : List Byte) :
    (combineStream S n ds).length = ds.length := List.length_mapIdx

theorem getElem?_combineStream (S : Cells) (n : Nat) (ds : List Byte) (i : Nat) :
    (combineStream S n ds)[i]? = ds[i]?.map fun d => d ^^^ keystreamByteAt S (n + 8 * i) := List.getElem?_mapIdx

theorem combineStream_cons (S : Cells) (n : Nat) (d : Byte) (ds : List Byte) :
    combineStream S n (d :: ds) = (d ^^^ keystreamByteAt S n) :: combineStream S (n + 8) ds := by
  have hnext (i : Nat) : n + 8 * (i + 1) = n + 8 + 8 * i := by omega
  simp only [combineStream, List.mapIdx_cons, Nat.mul_zero, Nat.add_zero, hnext]

/-- Combining twice with the same keystream gives the bytes back: `(p ^ b) ^ b = p` (R171). -/
theorem combineStream_combineStream (S : Cells) (n : Nat) (ds : List Byte) :
    combineStream S n (combineStream S n ds) = ds := by
  apply List.ext_getElem?
  intro i
  rw [getElem?_combineStream, getElem?_combineStream, Option.map_map]
  simp [Function.comp_def]

/-- A list with the entries of the combination is the combination. -/
theorem eq_combineStream {S : Cells} {n : Nat} {ds es : List Byte} (hlen : es.length = ds.length)
    (h : ∀ i < ds.length, es[i]? = ds[i]?.map fun d => d ^^^ keystreamByteAt S (n + 8 * i)) :
    es = combineStream S n ds := by
  apply List.ext_getElem?
  intro i
  rw [getElem?_combineStream]
  by_cases hi : i < ds.length
  · exact h i hi
  · rw [List.getElem?_eq_none (by omega), List.getElem?_eq_none (by omega), Option.map_none]

/-! ### A list of XORB commands -/

theorem takesKeystream_xorb (ds : List Byte) : ∀ i ∈ ds.map Instr.xorb, takesKeystream i = true :=
  List.forall_mem_map.2 fun _ _ => rfl

theorem sum_bitsTaken_xorb (ds : List Byte) : ((ds.map Instr.xorb).map bitsTaken).sum = 8 * ds.length := by
  induction ds with
  | nil => rfl
  | cons d ds ih =>
    rw [List.map_cons, List.map_cons, List.sum_cons, ih, List.length_cons, bitsTaken]
    omega

theorem expectedResponses_xorb (S : Cells) (n : Nat) (ds : List Byte) :
    expectedResponses S n (ds.map .xorb) = (combineStream S n ds).map fun c => 0x70#8 ++ c := by
  induction ds generalizing n with
  | nil => rw [List.map_nil, expectedResponses]; rfl
  | cons d ds ih => rw [List.map_cons, expectedResponses, ih, combineStream_cons, List.map_cons]

/-- Keystream commands in READY report no error, so they keep LAST_ERR (R208). -/
theorem execAll_keystream_lastErr {is : List Instr} (his : ∀ i ∈ is, takesKeystream i = true) {s t : State}
    (hp : s.phase = .ready) (h : execAll is s = some t) : t.lastErr = s.lastErr := by
  induction is generalizing s with
  | nil => exact congrArg State.lastErr (Option.some.inj h).symm
  | cons i is ih =>
    obtain ⟨hi, his⟩ := List.forall_mem_cons.1 his
    obtain ⟨u, hu, hpu, -⟩ := exec_keystream_consumes hi hp (stepN_zero s.cells).symm
    rw [execAll_cons hu] at h
    rw [ih his hpu h, (exec_keystream_frame hi hu).2 hp]

/-- XORB over a list of bytes, on an engine of which `n` bits have been consumed: the combined bytes are the answers, and
eight bits a byte are consumed (R148, R170). -/
theorem execAll_xorb (ds : List Byte) {S : Cells} {n : Nat} {s : State} (hp : s.phase = .ready)
    (hs : s.cells = stepN n S) :
    ∃ t : State, execAll (ds.map .xorb) s = some t ∧ t.phase = .ready ∧ t.cells = stepN (n + 8 * ds.length) S ∧
      t.lastErr = s.lastErr ∧
      responsesOf (ds.map .xorb) s = (combineStream S n ds).map fun c => 0x70#8 ++ c := by
  have hks := takesKeystream_xorb ds
  obtain ⟨t, ht, hpt, hct, hresp⟩ := execAll_keystream hks hp hs
  rw [sum_bitsTaken_xorb] at hct
  exact ⟨t, ht, hpt, hct, execAll_keystream_lastErr hks hp ht, by rw [hresp, expectedResponses_xorb]⟩

end Sys2Proof.Proofs
end

section
/-! PROOFS. XORB (spec/43_combiner.md R170), and the reuse of an engine without a new INIT (R172). -/

namespace Sys2Proof.Proofs

open Sys2Proof.Machine Sys2Proof.Claims

/-! ### XORB -/

/-- A word with a nonzero RSV is invalid, whatever its opcode (R94, R205). -/
theorem failsAsBadCmd_of_rsv {w : CmdWord} (h : rsvField w ≠ 0x0#4) : FailsAsBadCmd w := by
  apply failsAsBadCmd_of_invalid
  by_contra hvalid
  obtain ⟨-, hrsv, -⟩ := (validWord_iff w).1 (by simpa using hvalid)
  exact h hrsv

theorem exec_xorb_notReady_answer (d : Byte) {s : State} (hp : s.phase ≠ .ready) :
    exec (.xorb d) s = .next { s with rsp := 0x7300#16, rspV := true, lastErr := .notReady } := by
  have hrsp : rspWord (encode (.xorb d)) .notReady 0x00#8 = 0x7300#16 := by
    rw [encode_xorb]
    exact (rspWord_append 0x7#4 0x0#4 d .notReady 0x00#8).trans (by decide)
  rw [exec_xorb_notReady d hp, ← hrsp]
  rfl

/-- Settles O41, by the answers of XORB beside KSB's and, for the example, the keystream from the cells after warm-up. -/
theorem xorbCombinesOneDataByte : Obligations.XorbCombinesOneDataByte := by
  unfold Obligations.XorbCombinesOneDataByte
  refine ⟨encodedWithData_of_encode encode_xorb (by decide), fun d => acceptedInEmptyAndReady _,
    fun w _ hrsv => failsAsBadCmd_of_rsv hrsv, fun d s hp => exec_xorb_notReady_answer d hp,
    fun d s hp => ⟨_, exec_xorb_answer d hp, keystreamByte_bit s.cells, exec_ksb_answer hp⟩, fun s hp hs => ?vector⟩
  case vector =>
    rw [responsesOf_keystream (by decide) hp, hs, warmedUp_doc]
    decide +kernel

/-! ### An engine used again without INIT -/

/-- A byte passed twice through the same engine meets two keystream bytes, one after the other (R172). -/
theorem exec_xorb_twice (p : Byte) {s : State} (hp : s.phase = .ready) :
    ∃ t u : State, exec (.xorb p) s = .next t ∧ exec (.xorb (rspData t.rsp)) t = .next u ∧ rspCode u.rsp = 0#3 ∧
      rspData u.rsp = p ^^^ keystreamByteAt s.cells 0 ^^^ keystreamByteAt s.cells 8 := by
  refine ⟨_, _, exec_xorb_ready p hp, exec_xorb_ready _ hp, rspWord_code _ _ _, ?_⟩
  rw [← keystreamByte_stepN s.cells 0, ← keystreamByte_stepN s.cells 8]
  simp

/-- Two stretches of keystream that differ do not cancel. -/
theorem xor_xor_ne {w : Nat} (p : BitVec w) {a b : BitVec w} (h : a ≠ b) : p ^^^ a ^^^ b ≠ p := by
  simpa [BitVec.xor_assoc] using h

/-- A READY engine whose first two keystream bytes are 0x01 and 0x00 (vector WU-3). -/
def engineWithoutWarmup : State :=
  { State.reset with phase := .ready, cells := loadCells zeros zeros Config.markersDoc }

theorem engineWithoutWarmup_keystream :
    keystreamByteAt engineWithoutWarmup.cells 0 ≠ keystreamByteAt engineWithoutWarmup.cells 8 := by
  have hbytes := skippedWarmupGivesAnotherKeystream.1
  simp only [List.map_cons, List.cons.injEq] at hbytes
  obtain ⟨hfirst, hsecond, -⟩ := hbytes
  rw [engineWithoutWarmup, hfirst, hsecond]
  decide

/-- Settles O56, by the two lists of XORB one after the other, and by a byte that two different keystream bytes change. -/
theorem reusedEngineGoesOnWithItsKeystream : Obligations.ReusedEngineGoesOnWithItsKeystream := by
  unfold Obligations.ReusedEngineGoesOnWithItsKeystream
  refine ⟨fun S n P C s hp hs hlen hC => ?stretches, ?notP⟩
  case stretches =>
    obtain rfl := eq_combineStream hlen hC
    obtain ⟨t, ht, hpt, hct, het, hrt⟩ := execAll_xorb P hp hs
    obtain ⟨u, hu, -, -, heu, hru⟩ := execAll_xorb (combineStream S n P) hpt hct
    refine ⟨t, u, ht, hu, heu.trans het, hrt, fun i _ => ?_⟩
    rw [hru, List.getElem?_map, getElem?_combineStream, getElem?_combineStream, Option.map_map, Option.map_map,
      show n + 8 * P.length + 8 * i = n + 8 * (P.length + i) by omega]
    rfl
  case notP =>
    obtain ⟨t, u, ht, hu, hcode, hdata⟩ := exec_xorb_twice 0x61#8 (s := engineWithoutWarmup) rfl
    exact ⟨_, t, u, _, rfl, ht, hu, hcode, hdata ▸ xor_xor_ne _ engineWithoutWarmup_keystream⟩

end Sys2Proof.Proofs
end

section
/-! SUPPORT. What a host reads from a run (spec/20_memory.md R74, R79): the responses of two runs one after the other, of
commands offered one a clock edge, and of the warm-up. -/

namespace Sys2Proof.Proofs

open Sys2Proof.Machine Sys2Proof.Claims

/-! ### The responses of a run -/

theorem responses_succ {n : Nat} {s t : State} (h : step s = .next t) :
    responses (n + 1) s = if t.rspV then t.rsp :: responses n t else responses n t := by
  rw [responses, h]

/-- The responses of a run of `m + n` edges are those of its first `m` and then those of the other `n`. -/
theorem responses_add {m : Nat} {s t : State} (h : Runs m s t) (n : Nat) :
    responses (m + n) s = responses m s ++ responses n t := by
  induction m generalizing s with
  | zero => rw [(runs_zero s t).1 h, Nat.zero_add, responses, List.nil_append]
  | succ m ih =>
    obtain ⟨u, hu, ht⟩ := h
    rw [Nat.succ_add, responses_succ hu, responses_succ hu, ih ht]
    split <;> rfl

/-! ### Commands offered one a clock edge -/

/-- What the host drives to send a list of commands, one at each edge (R97). -/
def offers (is : List Instr) : List Pins := is.map fun i => Pins.offer (encode i)

/-- A command offered outside WARMUP is the one the edge runs. -/
theorem step_offers_cons {i : Instr} {s t : State} (h : exec i s = .next t) (hp : s.phase ≠ .warmup)
    (is : List Instr) (ps : List Pins) :
    step { s with pins := offers (i :: is) ++ ps } = .next { t with pins := offers is ++ ps } := by
  calc
    step { s with pins := offers (i :: is) ++ ps } = accept (encode i) { s with pins := offers is ++ ps } :=
      step_offer (s := { s with pins := offers (i :: is) ++ ps }) rfl hp
    _ = exec i { s with pins := offers is ++ ps } := accept_ok (decode_encode i) _
    _ = .next { t with pins := offers is ++ ps } := exec_withPins _ h

/-- Only INIT leads into WARMUP (R34). -/
theorem exec_phase_ne_warmup {i : Instr} {s t : State} (hi : i ≠ .init) (hp : s.phase ≠ .warmup)
    (h : exec i s = .next t) : t.phase ≠ .warmup := by
  cases exec_onEngine h with
  | kept hphase | stepped _ _ hphase => rwa [hphase]
  | cleared hphase => rw [hphase]; decide
  | constructed => exact absurd rfl hi

/-- Commands offered from outside WARMUP, no INIT among them but perhaps the last, are accepted edge by edge: the run is
theirs, and the host reads their responses (R72, R74). -/
theorem runs_offers {is : List Instr} (hinit : Instr.init ∉ is.dropLast) {s t : State} (hp : s.phase ≠ .warmup)
    (h : execAll is s = some t) (ps : List Pins) :
    Runs is.length { s with pins := offers is ++ ps } { t with pins := ps } ∧
      responses is.length { s with pins := offers is ++ ps } = responsesOf is s := by
  induction is generalizing s with
  | nil =>
    obtain rfl := Option.some.inj h
    exact ⟨rfl, rfl⟩
  | cons i is ih =>
    obtain ⟨u, hu⟩ : ∃ u, exec i s = .next u := (exec_next i s).imp fun _ ⟨_, _, hu, _⟩ => hu
    obtain ⟨-, -, -, hv, -⟩ := exec_responds hu
    have hstep := step_offers_cons hu hp is ps
    rw [execAll_cons hu] at h
    rw [List.length_cons, runs_succ hstep, responses_succ hstep, if_pos hv, responsesOf_cons hu]
    cases is with
    | nil =>
      obtain rfl := Option.some.inj h
      exact ⟨rfl, rfl⟩
    | cons j js =>
      rw [List.dropLast_cons_cons, List.mem_cons, not_or] at hinit
      obtain ⟨hruns, hresp⟩ := ih hinit.2 (exec_phase_ne_warmup (Ne.symm hinit.1) hp hu) h
      exact ⟨hruns, by rw [hresp]⟩

/-- The same run from a state whose input is those offers and what follows them. -/
theorem runs_offered {is : List Instr} (hinit : Instr.init ∉ is.dropLast) {s t : State} (hp : s.phase ≠ .warmup)
    (h : execAll is s = some t) {ps : List Pins} (hpins : s.pins = offers is ++ ps) :
    Runs is.length s { t with pins := ps } ∧ responses is.length s = responsesOf is s := by
  have hruns := runs_offers hinit hp h ps
  rwa [← hpins] at hruns

/-! ### The warm-up -/

/-- While no reset is driven, the host reads no response from the warm-up (R130). -/
theorem responses_warmup {s : State} (hp : s.phase = .warmup) (hw : s.wcnt = 0#11)
    (hnr : NoReset (s.pins.take 1152)) {k : Nat} (hk : k ≤ 1152) : responses k s = [] := by
  induction k with
  | zero => rfl
  | succ k ih =>
    have hstep : step (afterTicks k s) = .next (afterTicks (k + 1) s) := by
      rw [step_tick (rst_pinsNow_of_noReset hnr hk) (afterTicks_phase_warmup s hk), tick_afterTicks s hk]
    rw [responses_add (runs_afterTicks hp hw hnr (by omega)), ih (by omega), responses_succ hstep,
      afterTicks_rspV s (by omega)]
    rfl

/-- Held through warm-up without reset, the engine is READY with its cells 1152 steps on, and the host has read nothing
(R132). -/
theorem runs_hold {s : State} {hold rest : List Pins} (hp : s.phase = .warmup) (hw : s.wcnt = 0#11)
    (hlen : hold.length = 1152) (hnr : NoReset hold) (hpins : s.pins = hold ++ rest) :
    ∃ t : State, Runs 1152 s t ∧ responses 1152 s = [] ∧ t.phase = .ready ∧ t.cells = stepN 1152 s.cells ∧
      t.pins = rest := by
  have hhold : NoReset (s.pins.take 1152) := by rwa [hpins, List.take_left' hlen]
  refine ⟨afterTicks 1152 s, runs_afterTicks hp hw hhold le_rfl, responses_warmup hp hw hhold le_rfl, ?_, ?_, ?_⟩
  · simp [afterTicks]
  · rw [afterTicks]
  · rw [afterTicks, hpins, List.drop_left' hlen]

end Sys2Proof.Proofs
end

section
/-! PROOFS. The round trip through two engines of the same key and IV (spec/43_combiner.md R171). -/

namespace Sys2Proof.Proofs

open Sys2Proof.Machine Sys2Proof.Claims

/-- The keystream's start: the cells of the engine of a key, an IV and a marker after its warm-up (R112, R132). -/
def warmedUp (k v : Vector Byte 80) (m : Config.MarkerCells) : Cells := stepN 1152 (loadCells k v m)

theorem init_not_mem_engineLoad (k v : Vector Byte 80) : Instr.init ∉ engineLoad k v := by
  intro h
  obtain ⟨d, hd | hd⟩ := engineLoad_loads k v _ h <;> cases hd

theorem length_engine (k v : Vector Byte 80) : (expandPseudo (.engine k v)).length = 161 := by
  simp [expandPseudo]

/-- ENGINE sent from counts 0, and the hold: the host reads OK 161 times, and the engine is READY with the rest of the
input before it (R97, R132). -/
theorem runs_engine {s : State} {k v : Vector Byte 80} {hold rest : List Pins} (hp : s.phase ≠ .warmup)
    (hk : s.kcnt = 0#7) (hi : s.icnt = 0#7) (hlen : hold.length = 1152) (hnr : NoReset hold)
    (hpins : s.pins = pseudoPins (.engine k v) ++ hold ++ rest) :
    ∃ t : State, Runs (161 + 1152) s t ∧ responses (161 + 1152) s = engineResponses ∧ t.phase = .ready ∧
      t.cells = warmedUp k v s.markers ∧ t.pins = rest := by
  obtain ⟨u, hu, hpu, hwu, hcu, hresp⟩ := execAll_engine k v hk hi
  have hinit : Instr.init ∉ (expandPseudo (.engine k v)).dropLast := by
    rw [expandPseudo_engine, List.dropLast_concat]
    exact init_not_mem_engineLoad k v
  rw [List.append_assoc] at hpins
  obtain ⟨hruns, hread⟩ := runs_offered hinit hp hu hpins
  rw [length_engine] at hruns hread
  obtain ⟨t, hwarm, hquiet, hpt, hct, hrest⟩ :=
    runs_hold (s := { u with pins := hold ++ rest }) hpu hwu hlen hnr rfl
  refine ⟨t, (runs_add hruns 1152 t).2 hwarm, ?read, hpt, ?cells, hrest⟩
  case read => rw [responses_add hruns, hquiet, List.append_nil, hread, hresp]
  case cells => rw [hct, warmedUp, ← hcu]

/-- What the host reads from ENGINE, the hold and a list of XORB commands: the bytes combined with the keystream of the
key, the IV and the marker, which nothing else of the engine enters (R171). -/
theorem responses_engine_enc {s : State} {k v : Vector Byte 80} {hold : List Pins} {ds : List Byte}
    (hp : s.phase ≠ .warmup) (hk : s.kcnt = 0#7) (hi : s.icnt = 0#7) (hlen : hold.length = 1152) (hnr : NoReset hold)
    (hpins : s.pins = pseudoPins (.engine k v) ++ hold ++ pseudoPins (.enc ds)) :
    responses (161 + 1152 + ds.length) s =
      engineResponses ++ (combineStream (warmedUp k v s.markers) 0 ds).map fun c => 0x70#8 ++ c := by
  obtain ⟨t, hruns, hread, hpt, hct, hrest⟩ := runs_engine hp hk hi hlen hnr hpins
  obtain ⟨u, hu, -, -, -, hresp⟩ := execAll_xorb ds hpt (stepN_zero t.cells).symm
  have hinit : Instr.init ∉ (ds.map Instr.xorb).dropLast := fun h => by
    simpa using List.mem_of_mem_dropLast h
  obtain ⟨-, henc⟩ := runs_offered hinit (by simp [hpt]) hu (hrest.trans (List.append_nil _).symm)
  rw [List.length_map] at henc
  rw [responses_add hruns, hread, henc, hresp, hct]

/-- Settles O43: both engines combine with the same keystream bytes, and combining twice gives the bytes back. -/
theorem xorbRoundTrip : Obligations.XorbRoundTrip := by
  unfold Obligations.XorbRoundTrip
  intro s k v hold P hp hk hi hlen hnr hpins
  refine ⟨combineStream (warmedUp k v s.markers) 0 P, length_combineStream _ _ _,
    responses_engine_enc hp hk hi hlen hnr hpins, fun s' hold' hp' hk' hi' hm hlen' hnr' hpins' => ?_⟩
  rw [responses_engine_enc hp' hk' hi' hlen' hnr' hpins', hm, combineStream_combineStream]

end Sys2Proof.Proofs
end

section
/-! PROOFS. NOP and CLR (spec/44_control.md R180, R181). -/

namespace Sys2Proof.Proofs

open Sys2Proof.Machine Sys2Proof.Claims

theorem rspWord_nop : rspWord (encode .nop) .ok 0x00#8 = 0x0000#16 := by decide

theorem rspWord_clr : rspWord (encode .clr) .ok 0x00#8 = 0x1000#16 := by decide

/-- NOP answers OK; nothing else changes (R180). -/
theorem exec_nop_answer (s : State) : exec .nop s = .next { s with rsp := 0x0000#16, rspV := true } := by
  rw [exec_nop, ← rspWord_nop]
  rfl

/-- CLR is a reset edge that answers OK (R181, R240). -/
theorem exec_clr_answer (s : State) :
    exec .clr s = .next { resetEdge s with rsp := 0x1000#16, rspV := true } := by
  rw [exec_clr, ← rspWord_clr]
  rfl

/-- Settles O44, by the answer of NOP. -/
theorem nopOnlyResponds : Obligations.NopOnlyResponds := by
  unfold Obligations.NopOnlyResponds
  exact ⟨encodedAs_of_encode (by decide), acceptedInEmptyAndReady _, otherwiseBadCmd_of_plain (by decide),
    exec_nop_answer⟩

/-- Settles O45, by the answer of CLR: the registers that STATUS shows hold their reset values. -/
theorem clrDestroysTheEngine : Obligations.ClrDestroysTheEngine := by
  unfold Obligations.ClrDestroysTheEngine
  refine ⟨encodedAs_of_encode (by decide), acceptedInEmptyAndReady _, otherwiseBadCmd_of_plain (by decide),
    fun s => ⟨_, exec_clr_answer s, rfl, ?status⟩⟩
  case status =>
    have hreset : State.reset.status = 0x00000000#32 := by decide
    exact hreset

end Sys2Proof.Proofs
end

section
/-! SUPPORT. The code an accepted word completes with (spec/60_exceptions.md R201), as a function of the word and the
state, tied to the model's outcome by `exec_answers` and `step_answers`; and which word and state give each code. -/

namespace Sys2Proof.Proofs

open Sys2Proof.Machine Sys2Proof.Claims

/-! ### The code of a command -/

/-- The code a command completes with: INIT by its counts, the key first (R202, R203, R207), a keystream command by
PHASE (R204), and any other command OK. -/
def commandCode (i : Instr) (s : State) : RespCode :=
  if i = .init then
    if s.kcnt ≠ 80#7 then .invalidKeyLength else if s.icnt ≠ 80#7 then .invalidIvLength else .ok
  else if takesKeystream i = true ∧ s.phase ≠ .ready then .notReady
  else .ok

theorem ne_init_of_takesKeystream {i : Instr} (hi : takesKeystream i = true) : i ≠ .init := by
  rintro rfl
  cases hi

theorem ne_clr_of_takesKeystream {i : Instr} (hi : takesKeystream i = true) : i ≠ .clr := by
  rintro rfl
  cases hi

theorem commandCode_keystream_notReady {i : Instr} {s : State} (hi : takesKeystream i = true) (hp : s.phase ≠ .ready) :
    commandCode i s = .notReady := by
  rw [commandCode, if_neg (ne_init_of_takesKeystream hi), if_pos ⟨hi, hp⟩]

theorem commandCode_keystream_ready {i : Instr} {s : State} (hi : takesKeystream i = true) (hp : s.phase = .ready) :
    commandCode i s = .ok := by
  rw [commandCode, if_neg (ne_init_of_takesKeystream hi), if_neg fun h => h.2 hp]

theorem commandCode_init_key {s : State} (hk : s.kcnt ≠ 80#7) : commandCode .init s = .invalidKeyLength := by
  simp [commandCode, hk]

theorem commandCode_init_iv {s : State} (hk : s.kcnt = 80#7) (hv : s.icnt ≠ 80#7) :
    commandCode .init s = .invalidIvLength := by
  simp [commandCode, hk, hv]

theorem commandCode_init_ok {s : State} (hk : s.kcnt = 80#7) (hv : s.icnt = 80#7) : commandCode .init s = .ok := by
  simp [commandCode, hk, hv]

theorem commandCode_ne_badCmd (i : Instr) (s : State) : commandCode i s ≠ .badCmd := by
  unfold commandCode
  split_ifs <;> decide

theorem commandCode_eq_invalidKeyLength_iff (i : Instr) (s : State) :
    commandCode i s = .invalidKeyLength ↔ i = .init ∧ s.kcnt ≠ 80#7 := by
  refine ⟨fun h => ?_, fun ⟨hi, hk⟩ => hi ▸ commandCode_init_key hk⟩
  unfold commandCode at h
  split_ifs at h with hi hk
  exact ⟨hi, hk⟩

theorem commandCode_eq_invalidIvLength_iff (i : Instr) (s : State) :
    commandCode i s = .invalidIvLength ↔ i = .init ∧ s.kcnt = 80#7 ∧ s.icnt ≠ 80#7 := by
  refine ⟨fun h => ?_, fun ⟨hi, hk, hv⟩ => hi ▸ commandCode_init_iv hk hv⟩
  unfold commandCode at h
  split_ifs at h with hi hk hv
  exact ⟨hi, not_not.1 hk, hv⟩

theorem commandCode_eq_notReady_iff (i : Instr) (s : State) :
    commandCode i s = .notReady ↔ takesKeystream i = true ∧ s.phase ≠ .ready := by
  refine ⟨fun h => ?_, fun ⟨hi, hp⟩ => commandCode_keystream_notReady hi hp⟩
  unfold commandCode at h
  split_ifs at h with _ _ _ hnotReady
  exact hnotReady

/-! ### The response -/

/-- In `t` the word `w` has been answered with `code`: RSP and RSP_V as R91 and R206 say, DATA 0x00 on an error, and
LAST_ERR, which was `old`, by the rule of R208. -/
structure Answered (w : CmdWord) (code old : RespCode) (t : State) : Prop where
  rsp : ∃ data : Byte, t.rsp = rspWord w code data ∧ (code ≠ .ok → data = 0x00#8)
  rspV : t.rspV = true
  lastErr : t.lastErr = lastErrAfter code old

theorem answered_ok {w : CmdWord} {data : Byte} {old : RespCode} {s : State} (hold : s.lastErr = old) :
    Answered w .ok old (respond w .ok data s) :=
  ⟨⟨data, rfl, fun h => absurd rfl h⟩, rfl, hold⟩

theorem answered_fail (w : CmdWord) (code : RespCode) (s : State) : Answered w code s.lastErr (fail w code s) :=
  ⟨⟨0x00#8, rfl, fun _ => rfl⟩, rfl, rfl⟩

/-- The code field of the response says which code was written. -/
theorem Answered.rspCode_iff {w : CmdWord} {code old : RespCode} {t : State} (h : Answered w code old t)
    (d : RespCode) : rspCode t.rsp = d.bits ↔ code = d := by
  obtain ⟨data, hrsp, -⟩ := h.rsp
  rw [hrsp, rspWord_code]
  exact ⟨RespCode.bits_injective, congrArg _⟩

/-- LAST_ERR as a command finds it when it responds: CLR has already set it to 0 (R181). -/
def lastErrBefore (i : Instr) (s : State) : RespCode := if i = .clr then .ok else s.lastErr

theorem exec_keystream_answers {i : Instr} (hi : takesKeystream i = true) (s : State) :
    ∃ t, exec i s = .next t ∧ Answered (encode i) (commandCode i s) s.lastErr t := by
  rcases exec_keystream_cases hi s with ⟨hp, h⟩ | ⟨hp, data, h⟩
  · rw [commandCode_keystream_notReady hi hp]
    exact ⟨_, h, answered_fail _ _ s⟩
  · rw [commandCode_keystream_ready hi hp]
    exact ⟨_, h, answered_ok rfl⟩

theorem exec_init_answers (s : State) :
    ∃ t, exec .init s = .next t ∧ Answered (encode .init) (commandCode .init s) s.lastErr t := by
  rcases exec_init_cases s with ⟨hk, h⟩ | ⟨hk, hv, h⟩ | ⟨hk, hv, h⟩
  · rw [commandCode_init_key hk]
    exact ⟨_, h, answered_fail _ _ s.clearBuffers⟩
  · rw [commandCode_init_iv hk hv]
    exact ⟨_, h, answered_fail _ _ s.clearBuffers⟩
  · rw [commandCode_init_ok hk hv]
    exact ⟨_, h, answered_ok rfl⟩

/-- Every command is answered with its code (R206). -/
theorem exec_answers (i : Instr) (s : State) :
    ∃ t, exec i s = .next t ∧ Answered (encode i) (commandCode i s) (lastErrBefore i s) t := by
  cases i with
  | nop | clr | keyb | ivb => exact ⟨_, rfl, answered_ok rfl⟩
  | init => exact exec_init_answers s
  | stepb | ksb | xorb => exact exec_keystream_answers rfl s

/-! ### The code of an accepted word -/

/-- The code an accepted word completes with: its command's, or BAD_CMD where it decodes to none (R205). -/
def wordCode (w : CmdWord) (s : State) : RespCode :=
  match decode w with
  | .ok i => commandCode i s
  | .error _ => .badCmd

theorem wordCode_ok {w : CmdWord} {i : Instr} (hd : decode w = .ok i) (s : State) : wordCode w s = commandCode i s := by
  rw [wordCode, hd]

theorem wordCode_error {w : CmdWord} {e : DecodeError} (hd : decode w = .error e) (s : State) :
    wordCode w s = .badCmd := by
  rw [wordCode, hd]

theorem wordCode_eq_badCmd_iff (w : CmdWord) (s : State) : wordCode w s = .badCmd ↔ validWord w = false := by
  rw [← Bool.not_eq_true, validWord_iff_decode]
  cases hd : decode w with
  | ok i => simp [wordCode_ok hd, commandCode_ne_badCmd]
  | error e => simp [wordCode_error hd]

theorem wordCode_eq_iff {c : RespCode} (hc : c ≠ .badCmd) (w : CmdWord) (s : State) :
    wordCode w s = c ↔ ∃ i, decode w = .ok i ∧ commandCode i s = c := by
  cases hd : decode w with
  | ok i => simp [wordCode_ok hd]
  | error e => simp [wordCode_error hd, hc.symm]

/-- Every accepted word is answered with its code (R200, R206). -/
theorem step_answers {s : State} (ha : s.accepts = true) :
    ∃ t, step s = .next t ∧ Answered s.pinsNow.cmd (wordCode s.pinsNow.cmd s)
      (if decode s.pinsNow.cmd = .ok .clr then .ok else s.lastErr) t := by
  cases hd : decode s.pinsNow.cmd with
  | ok i =>
    obtain ⟨t, ht, hanswer⟩ := exec_answers i s.popPins
    rw [encode_of_decode hd] at hanswer
    simp only [wordCode_ok hd, Except.ok.injEq]
    exact ⟨t, (step_accept_ok ha hd).trans ht, hanswer⟩
  | error e =>
    rw [wordCode_error hd]
    exact ⟨_, step_accept_error ha hd, answered_fail _ _ s.popPins⟩

/-- The words of the keystream commands, by their opcode (R93). -/
theorem takesKeystream_of_opField {i : Instr} (h : opField (encode i) ∈ [0x5#4, 0x6#4, 0x7#4]) :
    takesKeystream i = true := by
  cases i with
  | stepb | ksb | xorb => rfl
  | nop | clr | init => exact absurd h (by decide)
  | keyb d =>
    have hop : opField (encode (.keyb d)) = 0x2#4 := encode_keyb d ▸ opField_append 0x2#4 0x0#4 d
    exact absurd (hop ▸ h) (by decide)
  | ivb d =>
    have hop : opField (encode (.ivb d)) = 0x3#4 := encode_ivb d ▸ opField_append 0x3#4 0x0#4 d
    exact absurd (hop ▸ h) (by decide)

/-- In a state that accepts a word, PHASE is EMPTY or READY (R72). -/
theorem phase_ne_ready_iff_of_accepts {s : State} (ha : s.accepts = true) : s.phase ≠ .ready ↔ s.phase = .empty := by
  have hp := phase_ne_warmup_of_accepts ha
  cases h : s.phase with
  | empty => decide
  | warmup => exact absurd h hp
  | ready => decide

end Sys2Proof.Proofs
end

section
/-! PROOFS. The response codes and LAST_ERR (spec/60_exceptions.md R200 to R208). -/

namespace Sys2Proof.Proofs

open Sys2Proof.Machine Sys2Proof.Claims

/-! ### Every command responds (R200, R206) -/

theorem neverStops (s : State) : NeverStops s := by
  intro n
  induction n generalizing s with
  | zero => exact ⟨s, rfl⟩
  | succ n ih =>
    obtain ⟨u, hu⟩ := step_next s
    obtain ⟨t, ht⟩ := ih u
    exact ⟨t, u, hu, ht⟩

/-- A failed command starts no warm-up: the one that does, INIT with both counts 80, answers OK. -/
theorem phase_ne_warmup_of_error {s t : State} (ha : s.accepts = true) (h : step s = .next t)
    (hcode : rspCode t.rsp ≠ 0#3) : t.phase ≠ .warmup := by
  intro hp
  obtain ⟨hinit, hk, hv⟩ := (step_enters_warmup_iff h).1 ⟨phase_ne_warmup_of_accepts ha, hp⟩
  rw [step_init_ok hinit hk hv] at h
  cases h
  exact hcode (by decide : rspCode 0x4000#16 = 0#3)

/-- Settles O13: a run goes on by `step_next`, and outside WARMUP the next offer is accepted. -/
theorem noErrorStopsTheEngine : Obligations.NoErrorStopsTheEngine := by
  unfold Obligations.NoErrorStopsTheEngine
  refine ⟨step_next, neverStops, fun s ha => ?_⟩
  obtain ⟨t, ht, hanswer⟩ := step_answers ha
  refine ⟨t, ht, hanswer.rspV, ⟨_, (hanswer.rspCode_iff _).2 rfl, fun d hd => ((hanswer.rspCode_iff d).1 hd).symm⟩,
    fun hcode hrst hvalid => ?_⟩
  exact (accepts_iff t).2 ⟨hvalid, hrst, phase_ne_warmup_of_error ha ht hcode⟩

/-- Settles O49, by the code of the command. -/
theorem everyCommandResponds : Obligations.EveryCommandResponds := by
  unfold Obligations.EveryCommandResponds
  intro i s
  obtain ⟨t, ht, ⟨data, hrsp, hdata⟩, hv, herr⟩ := exec_answers i s
  refine ⟨t, commandCode i s, data, ht, hrsp, hv, fun hcode => ⟨hdata hcode, ?failed⟩, fun hcode => ?succeeded⟩
  case failed => rw [herr, lastErrAfter_error hcode]
  case succeeded =>
    rw [herr, hcode]
    rfl

/-! ### The causes of the codes (R201) -/

/-- Settles O46, by the code of the accepted word. -/
theorem responseCodesHaveTheirCauses : Obligations.ResponseCodesHaveTheirCauses := by
  unfold Obligations.ResponseCodesHaveTheirCauses
  refine ⟨⟨rfl, rfl, rfl, rfl, rfl⟩, fun s ha => ?_⟩
  obtain ⟨t, ht, hanswer⟩ := step_answers ha
  have hcode := hanswer.rspCode_iff
  refine ⟨t, ht, ?range, (hcode .badCmd).trans (wordCode_eq_badCmd_iff _ s), (hcode .invalidKeyLength).trans ?keyLength,
    (hcode .invalidIvLength).trans ?ivLength, (hcode .notReady).trans ?notReady⟩
  case range =>
    rw [(hcode _).2 rfl]
    exact RespCode.bits_range _
  case keyLength => simp [wordCode_eq_iff, commandCode_eq_invalidKeyLength_iff]
  case ivLength => simp [wordCode_eq_iff, commandCode_eq_invalidIvLength_iff]
  case notReady =>
    simp [wordCode_eq_iff, commandCode_eq_notReady_iff, phase_ne_ready_iff_of_accepts ha, ← and_assoc]

theorem decode_of_accepted_init {s : State} (ha : Accepted 0x4000#16 s) : decode s.pinsNow.cmd = .ok .init :=
  ha.2 ▸ decode_encode .init

/-- Settles O26, by the cause of code 1 and the first of the ways INIT ends. -/
theorem invalidKeyLengthError : Obligations.InvalidKeyLengthError := by
  unfold Obligations.InvalidKeyLengthError
  intro s ha
  obtain ⟨t, ht, -, -, hcode, -⟩ := responseCodesHaveTheirCauses.2 s ha.1
  have hd := decode_of_accepted_init ha
  refine ⟨t, ht, hcode.trans (and_iff_right hd), fun hk => ?_⟩
  rw [step_accept_ok ha.1 hd, exec_init_key (s := s.popPins) hk] at ht
  cases ht
  exact ⟨rspWord_data _ _ _, rfl, rfl, rfl, rfl, rfl, rfl, rfl, rfl⟩

/-- Settles O27, by the cause of code 2 and the second of the ways INIT ends. -/
theorem invalidIvLengthError : Obligations.InvalidIvLengthError := by
  unfold Obligations.InvalidIvLengthError
  intro s ha
  obtain ⟨t, ht, -, -, -, hcode, -⟩ := responseCodesHaveTheirCauses.2 s ha.1
  have hd := decode_of_accepted_init ha
  refine ⟨t, ht, hcode.trans (and_iff_right hd), fun hk hv => ?_⟩
  rw [step_accept_ok ha.1 hd, exec_init_iv (s := s.popPins) hk hv] at ht
  cases ht
  exact ⟨rspWord_data _ _ _, rfl, rfl, rfl, rfl, rfl, rfl, rfl, rfl⟩

/-- Settles O47: the answer outside READY, the cause of code 3, and `accepts_iff`. -/
theorem notReadyError : Obligations.NotReadyError := by
  unfold Obligations.NotReadyError
  refine ⟨fun s i hi ha hd hp => ?answer, fun s t h hv hcode => ?cause, fun s hp => ?warmup⟩
  case answer =>
    have hne : s.phase ≠ .ready := (phase_ne_ready_iff_of_accepts ha).2 hp
    rw [step_accept_ok ha hd, exec_keystream_notReady (s := s.popPins) hi hne, encode_of_decode hd]
    rfl
  case cause =>
    have ha : s.accepts = true := by
      by_contra ha
      exact absurd (hv.symm.trans (step_keeps_rsp (by simpa using ha) h).1) (by decide)
    obtain ⟨u, hu, -, -, -, -, hnotReady⟩ := responseCodesHaveTheirCauses.2 s ha
    obtain rfl := Host.Outcome.next.inj (hu.symm.trans h)
    exact (hnotReady.1 hcode).2
  case warmup =>
    by_contra ha
    exact phase_ne_warmup_of_accepts (by simpa using ha) hp

/-! ### BAD_CMD (R205) -/

theorem decode_ne_ok_iff (w : CmdWord) : (∀ i, decode w ≠ .ok i) ↔ validWord w = false := by
  rw [← Bool.not_eq_true, validWord_iff_decode, not_exists]

/-- The opcodes in use that take no data are the five others (R93). -/
theorem plainOpcode_iff : ∀ op : BitVec 4, op.toNat ≤ 0x7 →
    (op ∉ [0x2#4, 0x3#4, 0x7#4] ↔ op ∈ [0x0#4, 0x1#4, 0x4#4, 0x5#4, 0x6#4]) := by decide

/-- Which words are invalid, check by check of R94. -/
theorem validWord_eq_false_iff (w : CmdWord) : validWord w = false ↔
    0x8 ≤ (opField w).toNat ∨ rsvField w ≠ 0x0#4 ∨
      (opField w ∈ [0x0#4, 0x1#4, 0x4#4, 0x5#4, 0x6#4] ∧ dataField w ≠ 0x00#8) := by
  rw [← Bool.not_eq_true, validWord_iff]
  by_cases hop : (opField w).toNat ≤ 0x7
  · have hnot : ¬ 0x8 ≤ (opField w).toNat := by omega
    rw [← plainOpcode_iff _ hop, and_iff_right hop, or_iff_right hnot, not_and_or, not_or]
  · exact iff_of_true (fun h => hop h.1) (.inl (by omega))

/-- Settles O48, by the invalid words and the answer they get. -/
theorem badCmdError : Obligations.BadCmdError := by
  unfold Obligations.BadCmdError
  refine ⟨fun w hw => failsAsBadCmd_of_invalid ((decode_ne_ok_iff w).1 hw),
    fun w => (decode_ne_ok_iff w).trans (validWord_eq_false_iff w), fun w s hop ha => ?opcode9⟩
  case opcode9 =>
    have hw : validWord w = false := (validWord_eq_false_iff w).2 (.inl (by rw [opField, hop]; decide))
    refine ⟨_, failsAsBadCmd_of_invalid hw s ha, ?_⟩
    exact congrArg (· ++ 0#1 ++ 4#3 ++ 0x00#8) hop

/-! ### Priority (R207) -/

/-- Settles O50, by the causes of the codes. -/
theorem errorPriority : Obligations.ErrorPriority := by
  unfold Obligations.ErrorPriority
  refine ⟨fun s ha hw => ?badCmd, fun s ha hw hop hp => ?notReady, fun s ha hk _ => ?keyLength⟩
  case badCmd =>
    obtain ⟨t, ht, -, hcode, -⟩ := responseCodesHaveTheirCauses.2 s ha
    exact ⟨t, ht, hcode.2 hw⟩
  case notReady =>
    obtain ⟨t, ht, -, -, -, -, hcode⟩ := responseCodesHaveTheirCauses.2 s ha
    obtain ⟨i, hd⟩ := (validWord_iff_decode _).1 hw
    have hi : takesKeystream i = true := takesKeystream_of_opField (encode_of_decode hd ▸ hop)
    exact ⟨t, ht, hcode.2 ⟨⟨i, hd, hi⟩, hp⟩⟩
  case keyLength =>
    obtain ⟨t, ht, -, -, hcode, -⟩ := responseCodesHaveTheirCauses.2 s ha.1
    exact ⟨t, ht, hcode.2 ⟨decode_of_accepted_init ha, hk⟩⟩

/-! ### LAST_ERR (R208) -/

/-- An edge that neither resets nor accepts keeps LAST_ERR. -/
theorem step_keeps_lastErr {s t : State} (h : step s = .next t) (hr : s.pinsNow.rst = false) (ha : s.accepts = false) :
    t.lastErr = s.lastErr := by
  rcases step_cases h with ⟨hr', -⟩ | ⟨-, -, rfl⟩ | ⟨ha', -⟩ | ⟨ha', -⟩ | ⟨-, -, -, rfl⟩
  · exact absurd (hr'.symm.trans hr) (by decide)
  · rfl
  · exact absurd (ha'.symm.trans ha) (by decide)
  · exact absurd (ha'.symm.trans ha) (by decide)
  · rfl

/-- Settles O51: the reset edge, an accepted word's code, and the edges that keep LAST_ERR. -/
theorem lastErrIsSticky : Obligations.LastErrIsSticky := by
  unfold Obligations.LastErrIsSticky
  intro s t h
  have hanswer (ha : s.accepts = true) : Answered s.pinsNow.cmd (wordCode s.pinsNow.cmd s)
      (if decode s.pinsNow.cmd = .ok .clr then .ok else s.lastErr) t := by
    obtain ⟨u, hu, hanswer⟩ := step_answers ha
    exact Host.Outcome.next.inj (hu.symm.trans h) ▸ hanswer
  refine ⟨fun hr => ?reset, fun ha hcode => ?failed, fun ha hcode => ?succeeded, step_keeps_lastErr h⟩
  case reset =>
    rw [step_reset hr] at h
    cases h
    rfl
  case failed =>
    have hne : wordCode s.pinsNow.cmd s ≠ .ok := mt ((hanswer ha).rspCode_iff .ok).2 hcode
    rw [(hanswer ha).lastErr, lastErrAfter_error hne, ((hanswer ha).rspCode_iff _).2 rfl]
  case succeeded =>
    rw [(hanswer ha).lastErr, ((hanswer ha).rspCode_iff .ok).1 hcode, lastErrAfter_ok]

end Sys2Proof.Proofs
end

section
/-! PROOFS. What the cells and the buffers hold and no command has read yet (spec/70_reset_and_hazards.md R240): buffer
entries at or above their count, and the cells while PHASE is EMPTY. Two states that differ only there still do so after
every command and every edge, and they show the same at the ports. -/

namespace Sys2Proof.Proofs

open Sys2Proof.Machine Sys2Proof.Claims

/-! ### Buffers that agree below the count -/

/-- Two buffers agree in the entries that a count covers, the ones staged since the count was 0 (R32, R33). -/
def AgreeBelow (cnt : ByteCount) (b b' : Vector Byte 80) : Prop := ∀ j : Fin 80, j.val < cnt.toNat → b[j] = b'[j]

theorem agreeBelow_zero (b b' : Vector Byte 80) : AgreeBelow 0#7 b b' := fun _ hj => absurd hj (Nat.not_lt_zero _)

/-- A count of 80 covers the whole buffer. -/
theorem AgreeBelow.eq_of_full {b b' : Vector Byte 80} (h : AgreeBelow 80#7 b b') : b = b' :=
  Vector.ext fun j hj => h ⟨j, hj⟩ hj

/-- Staging one byte into both covers one entry more, and that entry is the byte. -/
theorem AgreeBelow.stageByte {cnt : ByteCount} {b b' : Vector Byte 80} (h : AgreeBelow cnt b b') (d : Byte) :
    AgreeBelow (stageByte b' cnt d).2 (stageByte b cnt d).1 (stageByte b' cnt d).1 := by
  intro j hj
  rw [stageByte_count] at hj
  rw [stageByte_entry, stageByte_entry]
  by_cases hnew : cnt.toNat = j.val
  · rw [if_pos hnew, if_pos hnew]
  · have hold : j.val < cnt.toNat := by split_ifs at hj <;> omega
    rw [if_neg hnew, if_neg hnew, h j hold]

/-! ### States that differ only in what was never read -/

/-- The engine with other contents in the cells and the buffers. -/
def withContents (s : State) (S : Cells) (k v : Vector Byte 80) : State := { s with cells := S, kbuf := k, ibuf := v }

/-- The contents differ from the engine's own only where no command has read them: above the counts, and in the cells
of an engine that is not constructed. -/
structure UnreadDiffers (s : State) (S : Cells) (k v : Vector Byte 80) : Prop where
  kbuf : AgreeBelow s.kcnt k s.kbuf
  ibuf : AgreeBelow s.icnt v s.ibuf
  cells : s.phase ≠ .empty → S = s.cells

theorem UnreadDiffers.own (s : State) : UnreadDiffers s s.cells s.kbuf s.ibuf :=
  ⟨fun _ _ => rfl, fun _ _ => rfl, fun _ => rfl⟩

/-- In EMPTY with both counts 0, no contents were read. -/
theorem UnreadDiffers.of_empty {s : State} (hp : s.phase = .empty) (hk : s.kcnt = 0#7) (hv : s.icnt = 0#7)
    (S : Cells) (k v : Vector Byte 80) : UnreadDiffers s S k v :=
  ⟨hk ▸ agreeBelow_zero _ _, hv ▸ agreeBelow_zero _ _, fun hne => absurd hp hne⟩

/-- The keystream commands read the cells, and those only of a constructed engine. -/
theorem UnreadDiffers.exec_keystream {i : Instr} {s t : State} {S : Cells} {k v : Vector Byte 80}
    (hs : UnreadDiffers s S k v) (hi : takesKeystream i = true) (h : exec i s = .next t) :
    ∃ S', exec i (withContents s S k v) = .next (withContents t S' k v) ∧ UnreadDiffers t S' k v := by
  by_cases hp : s.phase = .ready
  · obtain rfl : S = s.cells := hs.cells (by simp [hp])
    have hframe := (exec_keystream_frame hi h).1
    refine ⟨t.cells, exec_keystream_withBuffers k v hi h, ?_, ?_, fun _ => rfl⟩
    · rw [hframe]; exact hs.kbuf
    · rw [hframe]; exact hs.ibuf
  · rw [exec_keystream_notReady hi hp] at h
    cases h
    exact ⟨S, exec_keystream_notReady (s := withContents s S k v) hi hp, hs.kbuf, hs.ibuf, hs.cells⟩

/-- A command answers such states with such states. INIT is the one that reads the buffers, and it loads them only when
the counts cover every entry (R112). -/
theorem UnreadDiffers.exec {i : Instr} {s t : State} {S : Cells} {k v : Vector Byte 80}
    (hs : UnreadDiffers s S k v) (h : exec i s = .next t) :
    ∃ S' k' v', exec i (withContents s S k v) = .next (withContents t S' k' v') ∧ UnreadDiffers t S' k' v' := by
  cases i with
  | nop => cases h; exact ⟨S, k, v, rfl, hs.kbuf, hs.ibuf, hs.cells⟩
  | clr => cases h; exact ⟨_, _, _, rfl, .own _⟩
  | keyb d =>
    cases h
    refine ⟨S, _, v, (exec_keyb d _).trans ?_, hs.kbuf.stageByte d, hs.ibuf, hs.cells⟩
    rw [withContents, stageByte_count_congr k s.kbuf]
    rfl
  | ivb d =>
    cases h
    refine ⟨S, k, _, (exec_ivb d _).trans ?_, hs.kbuf, hs.ibuf.stageByte d, hs.cells⟩
    rw [withContents, stageByte_count_congr v s.ibuf]
    rfl
  | init =>
    rcases exec_init_cases s with ⟨hkc, e⟩ | ⟨hkc, hvc, e⟩ | ⟨hkc, hvc, e⟩ <;> rw [e] at h <;> cases h
    · exact ⟨S, _, _, exec_init_key (s := withContents s S k v) hkc, fun _ _ => rfl, fun _ _ => rfl, hs.cells⟩
    · exact ⟨S, _, _, exec_init_iv (s := withContents s S k v) hkc hvc, fun _ _ => rfl, fun _ _ => rfl, hs.cells⟩
    · obtain rfl : k = s.kbuf := AgreeBelow.eq_of_full (hkc ▸ hs.kbuf)
      obtain rfl : v = s.ibuf := AgreeBelow.eq_of_full (hvc ▸ hs.ibuf)
      exact ⟨_, _, _, exec_init_ok (s := withContents s S s.kbuf s.ibuf) hkc hvc, .own _⟩
  | stepb | ksb | xorb =>
    obtain ⟨S', hS', hrel⟩ := hs.exec_keystream rfl h
    exact ⟨S', k, v, hS', hrel⟩

/-- The same of an edge: a warm-up tick steps the cells of a constructed engine. -/
theorem UnreadDiffers.step {s t : State} {S : Cells} {k v : Vector Byte 80} (hs : UnreadDiffers s S k v)
    (h : step s = .next t) :
    ∃ S' k' v', step (withContents s S k v) = .next (withContents t S' k' v') ∧ UnreadDiffers t S' k' v' := by
  rcases step_cases h with ⟨hr, rfl⟩ | ⟨hr, hp, rfl⟩ | ⟨ha, i, hd, hexec⟩ | ⟨ha, ⟨e, hd⟩, rfl⟩ | ⟨hr, hp, hval, rfl⟩
  · exact ⟨_, _, _, step_reset (s := withContents s S k v) hr, .own _⟩
  · obtain rfl : S = s.cells := hs.cells (by simp [hp])
    exact ⟨_, _, _, step_tick (s := withContents s s.cells k v) hr hp, hs.kbuf, hs.ibuf, fun _ => rfl⟩
  · have hpop : UnreadDiffers s.popPins S k v := ⟨hs.kbuf, hs.ibuf, hs.cells⟩
    obtain ⟨S', k', v', ht', hrel⟩ := hpop.exec hexec
    exact ⟨S', k', v', (step_accept_ok (s := withContents s S k v) ha hd).trans ht', hrel⟩
  · exact ⟨S, k, v, step_accept_error (s := withContents s S k v) ha hd, hs.kbuf, hs.ibuf, hs.cells⟩
  · exact ⟨S, k, v, step_idle (s := withContents s S k v) hr hp hval, hs.kbuf, hs.ibuf, hs.cells⟩

/-- Contents that were never read show at no port, however long the run (R240). -/
theorem UnreadDiffers.portTrace_eq {s : State} {S : Cells} {k v : Vector Byte 80} (h : UnreadDiffers s S k v)
    (n : Nat) : portTrace n (withContents s S k v) = portTrace n s := by
  induction n generalizing s S k v with
  | zero => rfl
  | succ n ih =>
    obtain ⟨t, ht⟩ := step_next s
    obtain ⟨S', k', v', ht', hrel⟩ := h.step ht
    have hports : (withContents t S' k' v').ports = t.ports := rfl
    rw [portTrace_succ ht, portTrace_succ ht', hports, ih hrel]

end Sys2Proof.Proofs
end

section
/-! PROOFS. The reset edge and the values it sets (spec/70_reset_and_hazards.md R240), and the buffers that INIT consumes
(R247). -/

namespace Sys2Proof.Proofs

open Sys2Proof.Machine Sys2Proof.Claims

/-- Settles O12, register by register. -/
theorem resetStateHasTheSpecValues : Obligations.ResetStateHasTheSpecValues := by
  unfold Obligations.ResetStateHasTheSpecValues
  refine ⟨fun i _ => ?cells, fun j => ?buffers, rfl, rfl, rfl, rfl, rfl, rfl, rfl, by decide⟩
  case cells => exact BitVec.getLsbD_zero
  case buffers => simp [State.reset]

/-- In EMPTY an edge without reset and without an offer changes nothing but RSP_V, and that is 0 already. -/
theorem step_waits {s : State} (hr : s.pinsNow.rst = false) (hval : s.pinsNow.cmdValid = false)
    (hp : s.phase ≠ .warmup) (hv : s.rspV = false) : step s = .next { s with pins := s.pins.tail } := by
  rw [step_idle hr hp hval, idleEdge, ← hv]
  rfl

/-- Settles O11: after the reset edge the engine has the reset state's registers, waits, and has read no contents of the
cells and the buffers. -/
theorem resetEdgeSetsEveryRegister : Obligations.ResetEdgeSetsEveryRegister := by
  unfold Obligations.ResetEdgeSetsEveryRegister
  intro s hr
  have hready : s.cmdReady = false := by simp [State.cmdReady, hr]
  have haccepts : s.accepts = false := by simp [State.accepts, hready]
  obtain ⟨hcells, hbufs, hkcnt, hicnt, hphase, hwcnt, hlast, hrsp, hrspV, hstatus⟩ := resetStateHasTheSpecValues
  refine ⟨hready, haccepts, resetEdge s.popPins, step_reset hr, hcells, hbufs, hkcnt, hicnt, hphase, hwcnt, hlast, hrsp,
    hrspV, hstatus, rfl, rfl, fun hnr => ?ready, fun hnr hval => ?waits, fun n S k v => ?unseen⟩
  case ready => exact (cmdReady_iff _).2 ⟨hnr, by simp⟩
  case waits => exact step_waits hnr hval (by simp) rfl
  case unseen => exact (UnreadDiffers.of_empty (s := resetEdge s.popPins) hphase hkcnt hicnt S k v).portTrace_eq n

/-- However it ends, INIT clears the buffers (R112). -/
theorem exec_init_clears_buffers (s : State) :
    ∃ t : State, exec .init s = .next t ∧ t.kbuf = zeros ∧ t.ibuf = zeros ∧ t.kcnt = 0#7 ∧ t.icnt = 0#7 := by
  rcases exec_init_cases s with ⟨-, e⟩ | ⟨-, -, e⟩ | ⟨-, -, e⟩ <;> exact ⟨_, e, rfl, rfl, rfl, rfl⟩

/-- The words of INIT's opcode with a nonzero D are invalid, and fail as BAD_CMD (R205). -/
theorem init_word_with_data_fails {d : Byte} (hd : d ≠ 0x00#8) : FailsAsBadCmd (0x40#8 ++ d) := by
  have hinit : OtherwiseBadCmd 0x4#4 (0x4#4 ++ 0x0#4 ++ 0x00#8) := otherwiseBadCmd_of_plain (by decide)
  refine hinit (0x4#4 ++ 0x0#4 ++ d) (opField_append _ _ d) fun heq => hd ?_
  simpa only [dataField_append] using congrArg dataField heq

/-- Settles O28, by the three ways INIT ends and what an invalid word keeps. -/
theorem initConsumesTheBuffers : Obligations.InitConsumesTheBuffers := by
  unfold Obligations.InitConsumesTheBuffers
  refine ⟨exec_init_clears_buffers, fun d s hd ha => ?_⟩
  exact ⟨_, init_word_with_data_fails hd s ha, rspWord_code _ .badCmd _, rfl, rfl, rfl, rfl⟩

end Sys2Proof.Proofs
end

section
/-! PROOFS. The word that `withFetchWord` puts before the machine (spec/70_reset_and_hazards.md R244): the rest of a
warm-up ends in READY, and then the word is the next command. -/

namespace Sys2Proof.Proofs

open Sys2Proof.Machine

/-! ### The rest of a warm-up -/

theorem finishWarmup_of_ne_warmup {s : State} (hp : s.phase ≠ .warmup) (fuel : Nat) : finishWarmup fuel s = s := by
  cases fuel with
  | zero => rfl
  | succ fuel => exact if_neg hp

theorem finishWarmup_succ {s : State} (hp : s.phase = .warmup) (fuel : Nat) :
    finishWarmup (fuel + 1) s = finishWarmup fuel (tick s) := if_pos hp

/-- The ticks use up no input. -/
theorem finishWarmup_pins (fuel : Nat) (s : State) : (finishWarmup fuel s).pins = s.pins := by
  induction fuel generalizing s with
  | zero => rfl
  | succ fuel ih =>
    by_cases hp : s.phase = .warmup
    · rw [finishWarmup_succ hp, ih, tick_pins]
    · rw [finishWarmup_of_ne_warmup hp]

/-- As many ticks as WCNT is away from 1151, counted round its 11 bits, and one more lead to READY. -/
theorem finishWarmup_phase {fuel : Nat} {s : State} (hp : s.phase = .warmup)
    (hfuel : (1151#11 - s.wcnt).toNat < fuel) : (finishWarmup fuel s).phase = .ready := by
  induction fuel generalizing s with
  | zero => exact absurd hfuel (Nat.not_lt_zero _)
  | succ fuel ih =>
    rw [finishWarmup_succ hp]
    by_cases hlast : s.wcnt = 1151#11
    · have hready : (tick s).phase = .ready := by rw [tick_phase, if_pos hlast]
      rw [finishWarmup_of_ne_warmup (by rw [hready]; decide), hready]
    · refine ih (by rw [tick_phase, if_neg hlast, hp]) ?_
      rw [tick_wcnt]
      bv_omega

/-- 2048 ticks are enough from every value of WCNT. -/
theorem finishWarmup_ready {s : State} (hp : s.phase = .warmup) : (finishWarmup 2048 s).phase = .ready :=
  finishWarmup_phase hp (1151#11 - s.wcnt).isLt

/-! ### The word put before the machine -/

theorem decode_of_decodeTableWord {nbits w : Nat} {i : Instr} (h : decodeTableWord nbits w = some i) :
    decode (tableWord nbits w) = .ok i := by
  rw [decodeTableWord] at h
  cases hd : decode (tableWord nbits w) with
  | ok j => rw [hd] at h; cases h; rfl
  | error e => rw [hd] at h; cases h

/-- A word put before the input of a state outside WARMUP is run on that state. -/
theorem step_word_before_input {w : CmdWord} {i : Instr} {s : State} (hp : s.phase ≠ .warmup) (hd : decode w = .ok i) :
    step { s with pins := Pins.offer w :: s.pins } = exec i s :=
  (step_offer (s := { s with pins := Pins.offer w :: s.pins }) rfl hp).trans (accept_ok hd s)

theorem offerNext_of_ne_warmup (w : CmdWord) {s : State} (hp : s.phase ≠ .warmup) :
    offerNext w s = { s with pins := Pins.offer w :: s.pins } := if_neg hp

theorem offerNext_of_warmup (w : CmdWord) {s : State} (hp : s.phase = .warmup) :
    offerNext w s = { finishWarmup 2048 s with pins := Pins.offer w :: (finishWarmup 2048 s).pins } := by
  rw [finishWarmup_pins]
  exact if_pos hp

/-- Settles O8: outside WARMUP on the state itself, in WARMUP on the state at the end of the hold. -/
theorem fetchWordIsTheNextCommand : Obligations.FetchWordIsTheNextCommand := by
  unfold Obligations.FetchWordIsTheNextCommand
  intro s nbits w i h
  have hd := decode_of_decodeTableWord h
  refine ⟨fun hp => ?outside, fun hp => ?warmup⟩
  case outside =>
    rw [State.withFetchWord, offerNext_of_ne_warmup _ hp]
    exact step_word_before_input hp hd
  case warmup =>
    have hready := finishWarmup_ready hp
    refine ⟨finishWarmup 2048 s, hready, finishWarmup_pins 2048 s, ?_⟩
    rw [State.withFetchWord, offerNext_of_warmup _ hp]
    exact step_word_before_input (by simp [hready]) hd

end Sys2Proof.Proofs
end
